-- ==== Sys2Proof/Word.lean ====
section
/-! DEFINITION. The word types of PTCE: bytes of the transport, and the patterns the registers hold. -/

namespace Sys2Proof

/-- One byte: a transport byte, a sensor register address, a command code, a host register index. -/
abbrev Byte := BitVec 8

/-- A 16-bit register pattern (calibration constants, UT, the staging registers), R33, R36, R38. -/
abbrev Half := BitVec 16

/-- A 32-bit register pattern (UP, B5, T10, PRES, STATUS), R37, R39, R41, R42, R46. -/
abbrev Word := BitVec 32

/-- A binary64 pattern: bit 63 sign, bits 62:52 biased exponent, bits 51:0 fraction (R13, R111). -/
abbrev F64 := BitVec 64

end Sys2Proof
end

