-- ==== Sys2Proof/Syntax.lean ====
section
/-! DEFINITION. The commands of PTCE (one constructor per row of the opcode table), the names of its
calibration constants and host registers, the µops its sequencer holds, and what the outside world can do. -/

namespace Sys2Proof

/-- The eleven commands of R101, one per row of the opcode table. No command has an operand field
(R100, R104): every command takes its operands from registers. -/
inductive Instr
  | loadCal | sampleT | sampleP | compT | compP | alt | slp
  | readTemperature | readPressure | readAltitude | readSealevel
  deriving DecidableEq, Repr

/-- The seven primitive commands (R16 glossary, R101 "kind"): each runs one part of the block, and a
public command is a sequence of them, its phases (R220). `Exec(f)` of R48 names its f by one of these. -/
inductive Prim
  | loadCal | sampleT | sampleP | compT | compP | alt | slp
  deriving DecidableEq, Repr

/-- The eleven calibration constants, in the order k = 0..10 of R33. -/
inductive CalName
  | ac1 | ac2 | ac3 | ac4 | ac5 | ac6 | b1 | b2 | mb | mc | md
  deriving DecidableEq, Repr

/-- One value per calibration constant: the calibration file (R33), the staging registers (R36) and
the parameter `CAL_ADDR[0..10]` (R7) all have this shape. -/
structure CalTable (α : Type) where
  ac1 : α
  ac2 : α
  ac3 : α
  ac4 : α
  ac5 : α
  ac6 : α
  b1 : α
  b2 : α
  mb : α
  mc : α
  md : α
  deriving DecidableEq, Repr

/-- One value per operating mode 0..3 of R31: UltraLowPower, Standard, HighRes, UltraHighRes. -/
structure ModeTable (α : Type) where
  ultraLowPower : α
  standard : α
  highRes : α
  ultraHighRes : α
  deriving DecidableEq, Repr

/-- Where a `TxRead` puts its bytes (R48): a staging register, or the hidden byte buffer RXBUF. -/
inductive Dst
  | stg (k : CalName)
  | rxbuf
  deriving DecidableEq, Repr

/-- One µop of the engine (R48). -/
inductive UOp
  | txWrite (reg : Byte) (val : Byte)
  | txRead (reg : Byte) (n : Nat) (dst : Dst)
  | wait (t : Nat)
  | exec (f : Prim)
  deriving DecidableEq, Repr

/-- One entry of the sequencer's list: a µop, and the phase it is the first µop of, if a phase of a
public command begins with it (R220 item 3). -/
structure Slot where
  begins : Option Prim
  op : UOp
  deriving DecidableEq, Repr

/-- The host registers of the map of R112, by name. -/
inductive HostReg
  | cmd | status | cfg
  | cal (k : CalName)
  | ut | up | b5
  | t10 | tempC | pres | altOut | slpOut
  | sealevelIn | altitudeIn
  deriving DecidableEq, Repr

/-- The response of a host access (R71). -/
inductive Resp
  | ok | decerr
  deriving DecidableEq, Repr

/-- What the sensor answers to one transport transaction (R78 to R80, R289): it completes, with the
bytes of a read (a write carries none), it fails, or it never completes. -/
inductive Answer
  | ok (bytes : List Byte)
  | fail
  | never
  deriving DecidableEq, Repr

/-- What happens next at the block, one entry per indivisible event of the total order of R77: a host
access (R71), the `poll` loop of R106, one engine step (R48), time passing (R287), or reset with its
construction inputs (R280). -/
inductive Stimulus
  | hostRead (idx : Byte)
  | hostWrite (idx : Byte) (data : BitVec 64)
  | poll
  | engine
  | elapse (us : Nat)
  | reset (mode : BitVec 2) (devAddr : Byte)
  deriving DecidableEq, Repr

/-- One event of the record of R94. A transport event also carries the bus address, which every
transaction carries (R32), and `exec` carries the running command and the phase whose Exec ran (log 14). A
read's outcome is the list of bytes the sensor gave, or none for a failure. -/
inductive Event
  | hostRead (idx : Byte) (resp : Resp) (data : BitVec 64)
  | hostWrite (idx : Byte) (data : BitVec 64) (resp : Resp)
  | txWrite (dev reg val : Byte) (ok : Bool)
  | txRead (dev reg : Byte) (n : Nat) (bytes : Option (List Byte))
  | wait (t : Nat)
  | exec (cmd : Instr) (f : Prim)
  deriving DecidableEq, Repr

/-- One line of the host command language of R105 and R106. -/
inductive HostLine
  | wr (r : HostReg) (v : BitVec 64)
  | rd (r : HostReg)
  | cmd (i : Instr)
  | poll
  | run (i : Instr)
  | check
  deriving DecidableEq, Repr

end Sys2Proof
end

