-- ==== Sys2Proof/Config.lean ====
section
/-! DEFINITION. What an instance of PTCE fixes: the parameters of R7 (held in State as plain data, so that
every statement over a state is over every value of them), the fixed constants of R202, and the free values. -/

namespace Sys2Proof

/-- The parameters of R7 that are OPEN or configurable and are not registers: the sensor's register
addresses and command bytes (D17) and the settle times in microseconds (D18). MODE and DEV_ADDR are
construction inputs held in registers; POW is `Config.powBits` below. -/
structure Params where
  calAddr : CalTable Byte
  ctrlReg : Byte
  dataReg : Byte
  cmdTemp : Byte
  cmdPres : Byte
  tSettleT : Nat
  tSettleP : ModeTable Nat
  deriving DecidableEq, Repr

/-- The defaults of R7. The settle times are the source's; the addresses and command bytes are R7's
defaults "from general knowledge, not in source" (G1; PRESUMED, log 11). -/
def Params.default : Params where
  calAddr := ⟨0xAA, 0xAC, 0xAE, 0xB0, 0xB2, 0xB4, 0xB6, 0xB8, 0xBA, 0xBC, 0xBE⟩
  ctrlReg := 0xF4
  dataReg := 0xF6
  cmdTemp := 0x2E
  cmdPres := 0x34
  tSettleT := 4500
  tSettleP := ⟨4500, 7500, 13500, 25500⟩

namespace Config

/-- DESIGN CHOICE (log 1). The construction input MODE that `State.reset` is built with; the spec gives
none. `State.resetWith` takes any. -/
def defaultMode : BitVec 2 := 0

/-- The default construction input DEV_ADDR of R7 (PRESUMED, log 11). -/
def defaultDevAddr : Byte := 0x77

/-- `K_ALT` = 44330.0 (R202). -/
def kAlt : F64 := 0x40E5A54000000000

/-- `K_SL` = 44330.0 (R202; conflict C3 follows the constant of the altitude formula; log 18). -/
def kSl : F64 := 0x40E5A54000000000

/-- `EXP_SL` = lit(5.255) (R202). -/
def expSl : F64 := 0x4015051EB851EB85

/-- The reset value of SEALEVEL_IN, 101325.0 (R45). -/
def sealevelReset : F64 := 0x40F8BCD000000000

/-- A FREE VALUE (log 2): the bits of `POW(x, y)` wherever R201 leaves them open. Nothing in Lean can
evaluate it; `Machine.pow` constrains it to POW-1 to POW-7 and to nothing else. -/
opaque powBits : F64 → F64 → F64

/-- A FREE VALUE (log 3): the pattern of the n-th NaN result of an arithmetic operation. The spec's item
I3 lets it be any NaN pattern; `Machine.asNaN` makes a NaN of it. -/
opaque freeNaN : Nat → F64

/-- A FREE VALUE (log 4): what byte i of a buffer shorter than i + 1 reads as. R48 says nothing reads such
a byte; the engine stores only buffers of the length read. -/
opaque freeByte : Nat → Byte

end Config
end Sys2Proof
end

