-- ==== Sys2Proof/WellFormed.lean ====
section
/-! DEFINITION. Well-formedness of commands, µops and parameters, as decidable checks. -/

namespace Sys2Proof

/-- Every command is well formed: it has no operand field that could be out of range (R100). -/
def Instr.wf : Instr → Bool := fun _ => true

/-- A µop is well formed when it is one the engine issues (R83): a read of 2 bytes to a staging register,
or of 2 or 3 bytes to RXBUF. The transport's 1-byte read is never used. -/
def UOp.wf : UOp → Bool
  | .txRead _ n (.stg _) => n == 2
  | .txRead _ n .rxbuf => n == 2 || n == 3
  | .txWrite _ _ => true
  | .wait _ => true
  | .exec _ => true

/-- The constraint of R8: the UltraHighRes settle time is the largest of the four. -/
def Params.wf (p : Params) : Bool :=
  decide (p.tSettleP.ultraLowPower ≤ p.tSettleP.ultraHighRes)
    && decide (p.tSettleP.standard ≤ p.tSettleP.ultraHighRes)
    && decide (p.tSettleP.highRes ≤ p.tSettleP.ultraHighRes)

end Sys2Proof
end

