-- ==== Sys2Proof/Decode.lean ====
section
/-! DEFINITION. Decoding of command codes (R100 to R103) and host register indices (R112), and the encoders
written from the same tables. -/

namespace Sys2Proof

/-- Why bytes are not a command: there is no byte, or the code is illegal (R102). -/
inductive DecodeError
  | noCode
  | illegal (code : Byte)
  deriving DecidableEq, Repr

/-- The command codes of R101: exact match on all eight bits; every other code is illegal (R102). -/
def decodeCode (c : Byte) : Except DecodeError Instr :=
  match c.toNat with
  | 0x01 => .ok .loadCal
  | 0x02 => .ok .sampleT
  | 0x03 => .ok .sampleP
  | 0x04 => .ok .compT
  | 0x05 => .ok .compP
  | 0x06 => .ok .alt
  | 0x07 => .ok .slp
  | 0x08 => .ok .readTemperature
  | 0x09 => .ok .readPressure
  | 0x0A => .ok .readAltitude
  | 0x0B => .ok .readSealevel
  | _ => .error (.illegal c)

/-- Decoding of a byte sequence: one code, always one byte long (R100), and the bytes after it. -/
def decode : List Byte → Except DecodeError (Instr × List Byte)
  | [] => .error .noCode
  | c :: rest =>
    match decodeCode c with
    | .ok i => .ok (i, rest)
    | .error e => .error e

/-- The code of a command (R101). -/
def codeOf : Instr → Byte
  | .loadCal => 0x01
  | .sampleT => 0x02
  | .sampleP => 0x03
  | .compT => 0x04
  | .compP => 0x05
  | .alt => 0x06
  | .slp => 0x07
  | .readTemperature => 0x08
  | .readPressure => 0x09
  | .readAltitude => 0x0A
  | .readSealevel => 0x0B

/-- The words of a command: its one code byte (format CMD8, R100). -/
def encode (i : Instr) : List Byte := [codeOf i]

/-- The command an opcode-table word stands for: the low byte of the word, every bit above `nbits` zero. -/
def decodeTableWord (nbits w : Nat) : Option Instr :=
  match decode [BitVec.ofNat 8 (w % 2 ^ nbits)] with
  | .ok (i, _) => some i
  | .error _ => none

/-- The index of each host register (R112). -/
def indexOf : HostReg → Byte
  | .cmd => 0x00
  | .status => 0x01
  | .cfg => 0x02
  | .cal .ac1 => 0x10
  | .cal .ac2 => 0x11
  | .cal .ac3 => 0x12
  | .cal .ac4 => 0x13
  | .cal .ac5 => 0x14
  | .cal .ac6 => 0x15
  | .cal .b1 => 0x16
  | .cal .b2 => 0x17
  | .cal .mb => 0x18
  | .cal .mc => 0x19
  | .cal .md => 0x1A
  | .ut => 0x20
  | .up => 0x21
  | .b5 => 0x22
  | .t10 => 0x30
  | .tempC => 0x31
  | .pres => 0x32
  | .altOut => 0x33
  | .slpOut => 0x34
  | .sealevelIn => 0x40
  | .altitudeIn => 0x41

/-- The register an index names; none for an unmapped index (R112, R75). -/
def decodeIndex (idx : Byte) : Option HostReg :=
  match idx.toNat with
  | 0x00 => some .cmd
  | 0x01 => some .status
  | 0x02 => some .cfg
  | 0x10 => some (.cal .ac1)
  | 0x11 => some (.cal .ac2)
  | 0x12 => some (.cal .ac3)
  | 0x13 => some (.cal .ac4)
  | 0x14 => some (.cal .ac5)
  | 0x15 => some (.cal .ac6)
  | 0x16 => some (.cal .b1)
  | 0x17 => some (.cal .b2)
  | 0x18 => some (.cal .mb)
  | 0x19 => some (.cal .mc)
  | 0x1A => some (.cal .md)
  | 0x20 => some .ut
  | 0x21 => some .up
  | 0x22 => some .b5
  | 0x30 => some .t10
  | 0x31 => some .tempC
  | 0x32 => some .pres
  | 0x33 => some .altOut
  | 0x34 => some .slpOut
  | 0x40 => some .sealevelIn
  | 0x41 => some .altitudeIn
  | _ => none

/-- The code a host write carries: bits 7:0 of its data; bits 63:8 are ignored (R73). -/
def codeField (data : BitVec 64) : Byte := data.setWidth 8

/-- The command a host write to index `idx` with data `data` issues: some only for an access to CMD whose
code is legal (R73, R101). -/
def commandOf (idx : Byte) (data : BitVec 64) : Option Instr :=
  if idx = indexOf .cmd then
    match decode [codeField data] with
    | .ok (i, _) => some i
    | .error _ => none
  else none

/-- The host accesses one line of the host command language stands for (R105, R106). -/
def expandLine : HostLine → List Stimulus
  | .wr r v => [.hostWrite (indexOf r) v]
  | .rd r => [.hostRead (indexOf r)]
  | .cmd i => [.hostWrite (indexOf .cmd) ((codeOf i).setWidth 64)]
  | .poll => [.poll]
  | .run i => [.hostWrite (indexOf .cmd) ((codeOf i).setWidth 64), .poll]
  | .check => [.hostRead (indexOf .status)]

/-- The host accesses of a host program, in order. -/
def expandProgram (lines : List HostLine) : List Stimulus := lines.flatMap expandLine

end Sys2Proof
end

