-- ==== Sys2Proof/Machine/State.lean ====
section
/-! DEFINITION. The whole state of PTCE as plain data (R30 to R52), the outcomes' reasons, and reset. -/

namespace Sys2Proof.Machine

/-- The error codes 0 to 8 of R240. Codes 9 to 15 are reserved and never produced, so no constructor
stands for them. -/
inductive ErrCode
  | none | transport | div0T | div0P | range | nocal | reload | nodata | illegal
  deriving DecidableEq, Repr

/-- The sequencer (R47): idle, or running a command with its remaining µops in order. -/
inductive Seq
  | idle
  | run (cmd : Instr) (list : List Slot)
  deriving DecidableEq, Repr

/-- The machine never stops: every error of the spec ends the running command and is recorded in
STATUS.ERR (R246), and a transaction that never completes leaves the engine waiting with BUSY = 1 (R289)
while the host and reset still act. So there is no fault. -/
inductive Fault
  deriving DecidableEq, Repr

/-- The reasons for refusing to give a meaning. -/
inductive Refusal
  /-- An instruction without a meaning yet; raised by no arm of `exec`. Safe. -/
  | notModelled (mnemonic : String)
  deriving DecidableEq, Repr

/-- Everything the spec gives the machine, and below the line the model's own view of its surroundings. -/
structure State where
  /-- MODE, R31. -/
  mode : BitVec 2
  /-- DEV_ADDR, R32. -/
  devAddr : Byte
  /-- The calibration file AC1..MD, R33. -/
  cal : CalTable Half
  /-- CAL_VALID, R34. -/
  calValid : Bool
  /-- The staging registers STG[0..10], R36. -/
  stg : CalTable Half
  /-- The hidden byte buffer RXBUF, at most 3 bytes, R48. -/
  rxbuf : List Byte
  /-- UT and UT_VALID, R38. -/
  ut : Half
  utValid : Bool
  /-- UP and UP_VALID, R39. -/
  up : Word
  upValid : Bool
  /-- B5 and B5_VALID, R37. -/
  b5 : Word
  b5Valid : Bool
  /-- T10, TEMP_C and their flag T_VALID, R41. -/
  t10 : Word
  tempC : F64
  tValid : Bool
  /-- PRES and P_VALID, R42. -/
  pres : Word
  pValid : Bool
  /-- ALT_OUT and ALT_VALID, R43. -/
  altOut : F64
  altValid : Bool
  /-- SLP_OUT and SLP_VALID, R43. -/
  slpOut : F64
  slpValid : Bool
  /-- SEALEVEL_IN and ALTITUDE_IN, R45. -/
  sealevelIn : F64
  altitudeIn : F64
  /-- STATUS.OVR, STATUS.ERR and STATUS.LAST_CMD, R46. The other fields of STATUS are the flags
  themselves, and BUSY is read from `seq` (R46, R47). -/
  ovr : Bool
  err : ErrCode
  lastCmd : Byte
  /-- SEQ, R47. -/
  seq : Seq
  /-- The time remaining in a running Wait, in microseconds, 0 when none runs (R49, R287, R254). -/
  timer : Nat
  /-- Whether a transport transaction is in flight (R49, R289). -/
  inFlight : Bool
  /-- The parameters of R7 this instance was built with. Nothing writes them. -/
  params : Params
  /-- The MODEL's own (log 5): what happens next at the block, in the total order of R77. -/
  agenda : List Stimulus
  /-- The MODEL's own (log 6): the oracle's answers to the transactions to come, in order (R78, R159). -/
  answers : List Answer
  /-- The MODEL's own (log 14): the event record of R94, oldest first. -/
  trace : List Event
  /-- The MODEL's own (log 3): how many free NaN patterns have been used. -/
  nanCount : Nat
  deriving DecidableEq, Repr

/-- All-zero calibration or staging registers (R33, R52). -/
def calZero : CalTable Half := ⟨0, 0, 0, 0, 0, 0, 0, 0, 0, 0, 0⟩

/-- The state after reset with the given construction inputs and parameters (R52, R280). STG and RXBUF,
which the spec leaves unspecified, hold zeros (DESIGN CHOICE, log 7). -/
def State.resetWith (mode : BitVec 2) (devAddr : Byte) (params : Params) : State where
  mode := mode
  devAddr := devAddr
  cal := calZero
  calValid := false
  stg := calZero
  rxbuf := [0, 0, 0]
  ut := 0
  utValid := false
  up := 0
  upValid := false
  b5 := 0
  b5Valid := false
  t10 := 0
  tempC := 0
  tValid := false
  pres := 0
  pValid := false
  altOut := 0
  altValid := false
  slpOut := 0
  slpValid := false
  sealevelIn := Config.sealevelReset
  altitudeIn := 0
  ovr := false
  err := .none
  lastCmd := 0
  seq := .idle
  timer := 0
  inFlight := false
  params := params
  agenda := []
  answers := []
  trace := []
  nanCount := 0

/-- The machine right after reset, with the default DEV_ADDR and parameters of R7 and the construction
input MODE of `Config.defaultMode` (log 1). -/
def State.reset : State := State.resetWith Config.defaultMode Config.defaultDevAddr Params.default

end Sys2Proof.Machine
end

