-- ==== Sys2Proof/Machine/Float64.lean ====
section
/-! DEFINITION. IEEE 754 binary64 arithmetic on patterns, rounding to nearest with ties to even (R13, R111,
D6; log 22), and the power function of R201. A finite magnitude is held exactly, as a natural number of units of
2^-1074, the smallest subnormal: every finite binary64 value is a whole number of these. -/

namespace Sys2Proof.Machine

/-- Bit 63, the sign (R111). -/
def f64Sign (x : F64) : Bool := x.getLsbD 63

/-- Bits 62:52, the biased exponent (R111). -/
def f64Exp (x : F64) : Nat := (x.extractLsb' 52 11).toNat

/-- Bits 51:0, the fraction (R111). -/
def f64Frac (x : F64) : Nat := (x.extractLsb' 0 52).toNat

/-- Exponent field all ones and a fraction that is not zero (R111). -/
def f64IsNaN (x : F64) : Bool := f64Exp x == 2047 && f64Frac x != 0

/-- Exponent field all ones and fraction zero (R111). -/
def f64IsInf (x : F64) : Bool := f64Exp x == 2047 && f64Frac x == 0

/-- +0.0 or -0.0. -/
def f64IsZero (x : F64) : Bool := f64Exp x == 0 && f64Frac x == 0

/-- Neither an infinity nor a NaN. -/
def f64IsFinite (x : F64) : Bool := f64Exp x != 2047

/-- The number of units of 2^-1074 in the magnitude of a finite pattern. -/
def f64Mag (x : F64) : Nat :=
  if f64Exp x = 0 then f64Frac x else (f64Frac x + 2 ^ 52) * 2 ^ (f64Exp x - 1)

/-- The pattern with the given sign and bits 62:0. -/
def f64Pack (sign : Bool) (bits : Nat) : F64 := BitVec.ofBool sign ++ BitVec.ofNat 63 bits

/-- Bits 62:0 of an infinity. -/
def f64InfBits : Nat := 2047 * 2 ^ 52

/-- The infinity of the given sign. -/
def f64Inf (sign : Bool) : F64 := f64Pack sign f64InfBits

/-- The zero of the given sign. -/
def f64Zero (sign : Bool) : F64 := f64Pack sign 0

/-- The pattern 1.0. -/
def f64One : F64 := 0x3FF0000000000000

/-- The pattern 10.0. -/
def f64Ten : F64 := 0x4024000000000000

/-- Bits 62:0 of the binary64 magnitude nearest num / den units of 2^-1074, ties to even, infinity when
the rounded magnitude is past the largest finite one (R13). With 53 significant bits kept, `k` is how far
the last kept bit lies above 2^-1074, and exponent and fraction together are `n + k * 2^52`. -/
def f64RoundBits (num den : Nat) : Nat :=
  let k := (num / den).log2 - 52
  let unit := den * 2 ^ k
  let q := num / unit
  let r := num % unit
  let n := if unit < 2 * r ∨ (unit = 2 * r ∧ q % 2 = 1) then q + 1 else q
  min (n + k * 2 ^ 52) f64InfBits

/-- The binary64 value nearest (-1)^sign * num / den units of 2^-1074 (R13). -/
def f64Round (sign : Bool) (num den : Nat) : F64 := f64Pack sign (f64RoundBits num den)

/-- The signed number of units of 2^-1074 in a finite pattern. -/
def f64Units (x : F64) : Int := if f64Sign x then -(f64Mag x : Int) else f64Mag x

/-- A NaN made of a free pattern: any NaN pattern is one of these (I3). -/
def asNaN (x : F64) : F64 := if f64IsNaN x then x else x ||| 0x7FF8000000000000

/-- The n-th free NaN (log 3): sign and payload of a NaN result are any value (I3). -/
def freshNaN (n : Nat) : F64 := asNaN (Config.freeNaN n)

/-- The pattern with its sign bit flipped. -/
def f64Neg (x : F64) : F64 := x ^^^ 0x8000000000000000

/-- `f64(i)`: exact for |i| < 2^53 (R13). -/
def f64OfInt (i : Int) : F64 := f64Round (decide (i < 0)) (i.natAbs * 2 ^ 1074) 1

/-- `a ⊕ b` (R13). `nan` is the pattern of a NaN result. An exact zero sum is +0.0 unless both operands are
negative (round to nearest). -/
def f64Add (nan a b : F64) : F64 :=
  if f64IsNaN a || f64IsNaN b then nan
  else if f64IsInf a then (if f64IsInf b && f64Sign a != f64Sign b then nan else a)
  else if f64IsInf b then b
  else
    let v := f64Units a + f64Units b
    if v = 0 then f64Zero (f64Sign a && f64Sign b)
    else f64Round (decide (v < 0)) v.natAbs 1

/-- `a ⊖ b` (R13): the sum of a and b with b's sign bit flipped. -/
def f64Sub (nan a b : F64) : F64 := f64Add nan a (f64Neg b)

/-- `a ⊗ b` (R13). -/
def f64Mul (nan a b : F64) : F64 :=
  let sign := f64Sign a ^^ f64Sign b
  if f64IsNaN a || f64IsNaN b then nan
  else if f64IsInf a || f64IsInf b then (if f64IsZero a || f64IsZero b then nan else f64Inf sign)
  else f64Round sign (f64Mag a * f64Mag b) (2 ^ 1074)

/-- `a ⊘ b` (R13): x / 0 is an infinity for x not zero; 0 / 0 and inf / inf are NaN. -/
def f64Div (nan a b : F64) : F64 :=
  let sign := f64Sign a ^^ f64Sign b
  if f64IsNaN a || f64IsNaN b then nan
  else if f64IsInf a then (if f64IsInf b then nan else f64Inf sign)
  else if f64IsInf b then f64Zero sign
  else if f64IsZero b then (if f64IsZero a then nan else f64Inf sign)
  else f64Round sign (f64Mag a * 2 ^ 1074) (f64Mag b)

/-- A finite pattern that is an integer value. -/
def f64IsInteger (x : F64) : Bool := f64IsFinite x && f64Mag x % 2 ^ 1074 == 0

/-- A finite pattern that is an odd integer value. -/
def f64IsOddInteger (x : F64) : Bool := f64IsInteger x && f64Mag x / 2 ^ 1074 % 2 == 1

/-- x < 0: sign set, and not a NaN or a zero. -/
def f64IsNegative (x : F64) : Bool := f64Sign x && !f64IsNaN x && !f64IsZero x

/-- x > 0: sign clear, and not a NaN or a zero. -/
def f64IsPositive (x : F64) : Bool := !f64Sign x && !f64IsNaN x && !f64IsZero x

/-- A value that is not a NaN made of a free pattern, the identity on patterns that are not NaN (POW-7). -/
def asNumber (x : F64) : F64 := if f64IsNaN x then x &&& 0x800FFFFFFFFFFFFF else x

/-- `POW(x, y)` of R201: any total function of its two arguments with POW-1 to POW-7. Each clause below is
one property; every bit they leave open is the free value `Config.powBits` (log 2). -/
def pow (x y : F64) : F64 :=
  if x = f64One then f64One                                          -- POW-1
  else if f64IsZero y then f64One                                    -- POW-2
  else if f64IsNaN x || f64IsNaN y then asNaN (Config.powBits x y)   -- POW-6
  else if f64IsFinite x && f64IsNegative x && f64IsFinite y && !f64IsInteger y then
    asNaN (Config.powBits x y)                                       -- POW-3
  else if f64IsZero x && f64IsFinite y && f64IsPositive y && !f64IsOddInteger y then
    f64Zero false                                                    -- POW-4
  else if f64IsInf x && f64IsPositive y && !f64IsOddInteger y then
    f64Inf false                                                     -- POW-5
  else if f64IsFinite x && f64IsPositive x && f64IsFinite y then
    asNumber (Config.powBits x y)                                    -- POW-7
  else Config.powBits x y

end Sys2Proof.Machine
end

