-- ==== Sys2Proof/Machine/Arith.lean ====
section
/-! DEFINITION. The integer arithmetic of the pipelines: shifts, truncating division and the 32-bit lane
checks that raise RANGE (R10, R12, R170). -/

namespace Sys2Proof.Machine

/-- The labels of the pipeline steps of R172, R175 and R176. -/
inductive PipeStep
  | t1a | t1b | t2a | t2b | t2 | t3 | t4
  | p1 | p2a | p2b | p3 | p4 | p5a | p5b | p5c | p5d | p6 | p7 | p8a | p8b | p9a | p9b | p10a | p10b
  | p11 | p11a | p11b | p11c | p11d | p12a | p12b | p13 | p14a | p14b | p14c
  deriving DecidableEq, Repr

/-- `ArithmeticError(c, step)` of R14. The step is not recorded in hardware (R241). -/
structure ArithError where
  code : ErrCode
  step : PipeStep
  deriving DecidableEq, Repr

/-- `a >> n` on a signed value: floor(a / 2^n), rounding toward minus infinity (R10). -/
def asr (a : Int) (n : Nat) : Int := a / 2 ^ n

/-- `a << n`: a * 2^n, exact (R10). -/
def shl (a : Int) (n : Nat) : Int := a * 2 ^ n

/-- `tdiv(a, b)`: division truncating toward zero (R10). -/
def tdiv (a b : Int) : Int := a.tdiv b

/-- `s32(v)`: v when it lies in the signed 32-bit lane, else RANGE at the step (R12). -/
def s32 (step : PipeStep) (v : Int) : Except ArithError Int :=
  if -2147483648 ≤ v ∧ v ≤ 2147483647 then .ok v else .error ⟨.range, step⟩

/-- `u32(v)`: v when it lies in the unsigned 32-bit lane, else RANGE at the step (R12). -/
def u32 (step : PipeStep) (v : Int) : Except ArithError Int :=
  if 0 ≤ v ∧ v ≤ 4294967295 then .ok v else .error ⟨.range, step⟩

end Sys2Proof.Machine
end

