-- ==== Sys2Proof/Machine/Operands.lean ====
section
/-! DEFINITION. How operands are read: big-endian transport bytes (R79, R81), the interpretation of each
calibration constant (R33, R110, R143), the parameters by mode, and the conversion bytes (R107). -/

namespace Sys2Proof.Machine

/-- Entry k of a table of calibration constants (R33). -/
def calGet {α : Type} (t : CalTable α) : CalName → α
  | .ac1 => t.ac1
  | .ac2 => t.ac2
  | .ac3 => t.ac3
  | .ac4 => t.ac4
  | .ac5 => t.ac5
  | .ac6 => t.ac6
  | .b1 => t.b1
  | .b2 => t.b2
  | .mb => t.mb
  | .mc => t.mc
  | .md => t.md

/-- The table with entry k replaced. -/
def calSet {α : Type} (t : CalTable α) (k : CalName) (v : α) : CalTable α :=
  match k with
  | .ac1 => { t with ac1 := v }
  | .ac2 => { t with ac2 := v }
  | .ac3 => { t with ac3 := v }
  | .ac4 => { t with ac4 := v }
  | .ac5 => { t with ac5 := v }
  | .ac6 => { t with ac6 := v }
  | .b1 => { t with b1 := v }
  | .b2 => { t with b2 := v }
  | .mb => { t with mb := v }
  | .mc => { t with mc := v }
  | .md => { t with md := v }

/-- The order of the eleven reads of LOAD_CAL: k = 0..10 (R142). -/
def calOrder : List CalName := [.ac1, .ac2, .ac3, .ac4, .ac5, .ac6, .b1, .b2, .mb, .mc, .md]

/-- Whether a constant is read as signed: AC4, AC5 and AC6 are unsigned, the other eight signed (R33). -/
def calSigned : CalName → Bool
  | .ac4 | .ac5 | .ac6 => false
  | .ac1 | .ac2 | .ac3 | .b1 | .b2 | .mb | .mc | .md => true

/-- The value of a constant in the pipelines: `sext_16` or `zext_16` of its pattern by its field (R143). -/
def calValue (t : CalTable Half) (k : CalName) : Int :=
  if calSigned k then (calGet t k).toInt else ((calGet t k).toNat : Int)

/-- The entry of a mode (R31). -/
def modeGet {α : Type} (t : ModeTable α) (mode : BitVec 2) : α :=
  match mode.toNat with
  | 0 => t.ultraLowPower
  | 1 => t.standard
  | 2 => t.highRes
  | _ => t.ultraHighRes

/-- Byte i of a buffer; a byte the buffer does not have is a free value (log 4). -/
def byteAt (bs : List Byte) (i : Nat) : Nat := (bs.getD i (Config.freeByte i)).toNat

/-- The big-endian value of a 2-byte read: `b[0]*256 + b[1]` (R79). -/
def be16 (bs : List Byte) : Nat := byteAt bs 0 * 256 + byteAt bs 1

/-- The big-endian value of a 3-byte read: `b[0]*65536 + b[1]*256 + b[2]` (R79). -/
def be24 (bs : List Byte) : Nat := byteAt bs 0 * 65536 + byteAt bs 1 * 256 + byteAt bs 2

/-- The byte SAMPLE_P writes to CTRL_REG: `(CMD_PRES OR (MODE << 6)) mod 256` (R107, D28). -/
def presByte (p : Params) (mode : BitVec 2) : Byte := BitVec.ofNat 8 (p.cmdPres.toNat ||| (mode.toNat <<< 6))

end Sys2Proof.Machine
end

