-- ==== Sys2Proof/Machine/Flags.lean ====
section
/-! DEFINITION. The status side of the machine: BUSY, the error codes, and the STATUS and CFG words
(R46, R47, R113, R114, R240). PTCE has no condition codes (R50): its only flags are these. -/

namespace Sys2Proof.Machine

/-- BUSY = 1 exactly when SEQ is not IDLE (R47). -/
def busy (s : State) : Bool := s.seq != .idle

/-- The 4-bit code of an error (R240). -/
def errBits : ErrCode → BitVec 4
  | .none => 0
  | .transport => 1
  | .div0T => 2
  | .div0P => 3
  | .range => 4
  | .nocal => 5
  | .reload => 6
  | .nodata => 7
  | .illegal => 8

/-- STATUS (R46): bits 31:24 zero, LAST_CMD, the eight valid flags from SLP_VALID down to CAL_VALID, ERR,
bits 3:2 zero, OVR, BUSY. -/
def statusWord (s : State) : Word :=
  (0 : BitVec 8) ++ s.lastCmd
    ++ BitVec.ofBool s.slpValid ++ BitVec.ofBool s.altValid ++ BitVec.ofBool s.pValid ++ BitVec.ofBool s.tValid
    ++ BitVec.ofBool s.b5Valid ++ BitVec.ofBool s.upValid ++ BitVec.ofBool s.utValid ++ BitVec.ofBool s.calValid
    ++ errBits s.err ++ (0 : BitVec 2) ++ BitVec.ofBool s.ovr ++ BitVec.ofBool (busy s)

/-- CFG (R113): bits 15:8 DEV_ADDR, bits 7:2 zero, bits 1:0 MODE. -/
def cfgWord (s : State) : Half := s.devAddr ++ (0 : BitVec 6) ++ s.mode

end Sys2Proof.Machine
end

