-- ==== Sys2Proof/Machine/Ops.lean ====
section
/-! DEFINITION. The named operations over the state that the commands and the engine share: accepting or
turning away a command (R242, R74), raising an error (R246), ending a command, and recording an event
(R94). PTCE has no trap handler and no return from one (R250): raising an error is its exception entry, and
the next accepted command clears it. -/

namespace Sys2Proof.Machine

/-- Append an event to the record (R94). -/
def record (e : Event) (s : State) : State := { s with trace := s.trace ++ [e] }

/-- A host write to a writable register while BUSY = 1: OVR <- 1 and nothing else (R74). -/
def dropWrite (s : State) : State := { s with ovr := true }

/-- Raise an error in the running command (R241, R246): ERR <- code, the rest of the µop list is dropped
and SEQ <- IDLE, so BUSY falls. The failing µop writes nothing, so the caller passes the state before its
writes. -/
def raiseError (e : ErrCode) (s : State) : State := { s with err := e, seq := .idle }

/-- The list ran out without a raise (R246): SEQ <- IDLE with ERR = NONE. -/
def finish (s : State) : State := { s with err := .none, seq := .idle }

/-- A µop of the running command completed; `rest` is what remains; the last one also
ends the command (R48, R220; log 19). -/
def advance (cmd : Instr) (rest : List Slot) (s : State) : State :=
  if rest.isEmpty then finish s else { s with seq := .run cmd rest }

/-- A write to CMD that is refused (R242, R244): OVR, LAST_CMD and ERR change, nothing else does. -/
def refuseCommand (code : Byte) (e : ErrCode) (s : State) : State :=
  { s with ovr := false, lastCmd := code, err := e }

/-- A write to CMD that is accepted (R242): OVR <- 0, LAST_CMD <- c, ERR <- NONE, the start effects, and
SEQ <- RUN(c, µop list). -/
def acceptCommand (i : Instr) (start : State → State) (prog : List Slot) (s : State) : State :=
  { start { s with ovr := false, lastCmd := codeOf i, err := .none } with seq := .run i prog }

/-- A write of the legal code of command i to CMD (R74, R242): dropped while BUSY = 1, refused with the
first failing precondition, else accepted. -/
def issueCommand (i : Instr) (failing : Option ErrCode) (start : State → State) (prog : List Slot)
    (s : State) : State :=
  if busy s then dropWrite s
  else
    match failing with
    | some e => refuseCommand (codeOf i) e s
    | none => acceptCommand i start prog s

/-- A write of an illegal code to CMD (R102, R242). -/
def issueIllegal (code : Byte) (s : State) : State :=
  if busy s then dropWrite s else refuseCommand code .illegal s

/-- The check every command but LOAD_CAL begins with: CAL_VALID = 1 else NOCAL (R243). -/
def needCal (s : State) : Option ErrCode := if s.calValid then none else some .nocal

/-- NOCAL first, then NODATA unless the command's input is there (R243, R245). -/
def needCalAnd (data : Bool) (s : State) : Option ErrCode :=
  if s.calValid then (if data then none else some .nodata) else some .nocal

/-- The µops of a primitive command, none of which begins a phase: the command's own preconditions and
start effects happened at acceptance. -/
def primList (ops : List UOp) : List Slot := ops.map fun op => ⟨none, op⟩

/-- The µops of a phase of a public command: the first one begins the phase (R220 item 3; log 8). -/
def phaseList (p : Prim) : List UOp → List Slot
  | [] => []
  | op :: ops => ⟨some p, op⟩ :: primList ops

end Sys2Proof.Machine
end

