-- ==== Sys2Proof/Machine/Altitude.lean ====
section
/-! DEFINITION. The Altitude Converter: Altitude, SeaLevel and the commands ALT and SLP (R200 to R208). -/

namespace Sys2Proof.Machine

/-- The exponent E = 1.0 ⊘ lit(5.255) (R202). -/
def expAlt : F64 := f64Div (freshNaN 0) f64One Config.expSl

/-- The power of the pressure ratio: `POW(ratio, E)` (R203). A finite negative s whose ratio overflows to
-inf has a negative ratio too, and there R207 and item I2 of 93_implementation_defined.md make the result
NaN, where POW-5 alone would not (DEDUCED, log 10); `nan` is the pattern of that NaN. -/
def ratioPower (nan ratio s : F64) : F64 :=
  if f64IsFinite s && f64IsNegative s && ratio == f64Inf true then nan else pow ratio expAlt

/-- `Altitude(p, s)` (R203, R207). `n` numbers the free NaN patterns of its three operations; the first is
the division's or, where its quotient is no NaN, the power's. -/
def altitude (n : Nat) (p : Int) (s : F64) : F64 :=
  let ratio := f64Div (freshNaN n) (f64OfInt p) s
  let pw := ratioPower (freshNaN n) ratio s
  let t := f64Sub (freshNaN (n + 1)) f64One pw
  f64Mul (freshNaN (n + 2)) Config.kAlt t

/-- `SeaLevel(alt, p)` (R204). `n` numbers the free NaN patterns of its three operations. -/
def seaLevel (n : Nat) (alt : F64) (p : Int) : F64 :=
  let q := f64Div (freshNaN n) alt Config.kSl
  let base := f64Sub (freshNaN (n + 1)) f64One q
  let den := pow base Config.expSl
  f64Div (freshNaN (n + 2)) (f64OfInt p) den

/-- The µops of ALT (R205). -/
def uopsAlt : List UOp := [.exec .alt]

/-- The preconditions of ALT: NOCAL, then NODATA unless P_VALID = 1 (R205, R243). -/
def checkAlt (s : State) : Option ErrCode := needCalAnd s.pValid s

/-- The start effects of ALT: ALT_VALID <- 0 (R205). -/
def startAlt (s : State) : State := { s with altValid := false }

/-- The commit of ALT (R205). It cannot fail (R200). -/
def commitAlt (s : State) : Except ErrCode State :=
  .ok { s with
    altOut := altitude s.nanCount s.pres.toInt s.sealevelIn, altValid := true, nanCount := s.nanCount + 3 }

/-- ALT written to CMD (R205). -/
def execAlt (s : State) : Host.Outcome State Fault Refusal :=
  .next (issueCommand .alt (checkAlt s) startAlt (primList uopsAlt) s)

/-- The µops of SLP (R206). -/
def uopsSlp : List UOp := [.exec .slp]

/-- The preconditions of SLP: NOCAL, then NODATA unless P_VALID = 1 (R206, R243). -/
def checkSlp (s : State) : Option ErrCode := needCalAnd s.pValid s

/-- The start effects of SLP: SLP_VALID <- 0 (R206). -/
def startSlp (s : State) : State := { s with slpValid := false }

/-- The commit of SLP (R206). It cannot fail (R200). -/
def commitSlp (s : State) : Except ErrCode State :=
  .ok { s with
    slpOut := seaLevel s.nanCount s.altitudeIn s.pres.toInt, slpValid := true, nanCount := s.nanCount + 3 }

/-- SLP written to CMD (R206). -/
def execSlp (s : State) : Host.Outcome State Fault Refusal :=
  .next (issueCommand .slp (checkSlp s) startSlp (primList uopsSlp) s)

end Sys2Proof.Machine
end

