-- ==== Sys2Proof/Machine/Calibration.lean ====
section
/-! DEFINITION. LOAD_CAL (R140 to R145). -/

namespace Sys2Proof.Machine

/-- The µops of LOAD_CAL: eleven 2-byte reads into the staging registers in the order k = 0..10, then the
commit (R142). -/
def uopsLoadCal (p : Params) : List UOp :=
  calOrder.map (fun k => .txRead (calGet p.calAddr k) 2 (.stg k)) ++ [.exec .loadCal]

/-- The precondition of LOAD_CAL: CAL_VALID = 0 else RELOAD (R142, R243). -/
def checkLoadCal (s : State) : Option ErrCode := if s.calValid then some .reload else none

/-- The start effects of LOAD_CAL: none (R51). -/
def startLoadCal (s : State) : State := s

/-- The commit of LOAD_CAL: all eleven registers at once, and CAL_VALID <- 1 (R142, R144). -/
def commitLoadCal (s : State) : Except ErrCode State := .ok { s with cal := s.stg, calValid := true }

/-- LOAD_CAL written to CMD (R142). -/
def execLoadCal (s : State) : Host.Outcome State Fault Refusal :=
  .next (issueCommand .loadCal (checkLoadCal s) startLoadCal (primList (uopsLoadCal s.params)) s)

end Sys2Proof.Machine
end

