-- ==== Sys2Proof/Machine/Compensation.lean ====
section
/-! DEFINITION. The integer pipelines CompT, CompP and Step11 and the commands COMP_T and COMP_P (R170 to
R186). The pipelines are pure functions of their operands (R181) and stop at the first failing check (R180). -/

namespace Sys2Proof.Machine

/-- `CompT(UT, AC5, AC6, MC, MD) -> (B5, T10)` (R172, R173). -/
def compT (ut ac5 ac6 mc md : Int) : Except ArithError (Int × Int) := do
  let t ← s32 .t1a (ut - ac6)
  let t ← s32 .t1b (t * ac5)
  let x1 := asr t 15
  let n ← s32 .t2a (shl mc 11)
  let d ← s32 .t2b (x1 + md)
  if d = 0 then .error ⟨.div0T, .t2⟩
  else do
    let x2 := tdiv n d
    let b5 ← s32 .t3 (x1 + x2)
    let u ← s32 .t4 (b5 + 8)
    return (b5, asr u 4)

/-- `TempC(T10) = f64(T10) ⊘ 10.0` (R174). Neither operand is a NaN and the divisor is not zero, so the
free pattern passed for a NaN result is never used. -/
def tempCOf (t10 : Int) : F64 := f64Div (freshNaN 0) (f64OfInt t10) f64Ten

/-- `Step11(B7, B4) -> p` (R176, R179). -/
def step11 (b7 b4 : Int) : Except ArithError Int :=
  if b4 = 0 then .error ⟨.div0P, .p11⟩
  else if b7 < 0x80000000 then do
    let m ← u32 .p11a (b7 * 2)
    s32 .p11b (tdiv m b4)
  else do
    let m ← u32 .p11c (tdiv b7 b4 * 2)
    s32 .p11d m

/-- Steps P1 to P5d of R175: from B5 to B6, q and B3. -/
def compPStage1 (b5 ac1 ac2 b2 : Int) (mode : Nat) : Except ArithError (Int × Int × Int) := do
  let b6 ← s32 .p1 (b5 - 4000)
  let sq ← s32 .p2a (b6 * b6)
  let q := asr sq 12
  let x1 ← s32 .p2b (b2 * q)
  let x2 ← s32 .p3 (ac2 * b6)
  let x3 ← s32 .p4 (asr x1 11 + asr x2 11)
  let a ← s32 .p5a (ac1 * 4)
  let a ← s32 .p5b (a + x3)
  let a ← s32 .p5c (shl a mode)
  let a ← s32 .p5d (a + 2)
  return (b6, q, tdiv a 4)

/-- Steps P6 to P9b of R175: from B6 and q to B4. -/
def compPStage2 (b6 q ac3 ac4 b1 : Int) : Except ArithError Int := do
  let x1 ← s32 .p6 (ac3 * b6)
  let x2 ← s32 .p7 (b1 * q)
  let s ← s32 .p8a (asr x1 13 + asr x2 16)
  let s ← s32 .p8b (s + 2)
  let u ← u32 .p9a (asr s 2 + 32768)
  let w ← u32 .p9b (ac4 * u)
  return asr w 15

/-- Steps P10a and P10b of R175: B7 from UP and B3, with 50000 >> MODE (R178). -/
def compPStage3 (up b3 : Int) (mode : Nat) : Except ArithError Int := do
  let v ← u32 .p10a (up - b3)
  u32 .p10b (v * asr 50000 mode)

/-- Steps P12a to P14c of R175: from p to PRES. -/
def compPStage4 (p : Int) : Except ArithError Int := do
  let r := asr p 8
  let x1 ← s32 .p12a (r * r)
  let x1 ← s32 .p12b (x1 * 3038)
  let x2 ← s32 .p13 (-7357 * p)
  let w ← s32 .p14a (asr x1 16 + asr x2 16)
  let w ← s32 .p14b (w + 3791)
  s32 .p14c (p + asr w 4)

/-- `CompP(B5, UP, MODE, AC1, AC2, AC3, AC4, B1, B2) -> PRES` (R175, R178, R179): the steps P1 to P14c in
their listed order (R180). -/
def compP (b5 up : Int) (mode : Nat) (ac1 ac2 ac3 ac4 b1 b2 : Int) : Except ArithError Int := do
  let (b6, q, b3) ← compPStage1 b5 ac1 ac2 b2 mode
  let b4 ← compPStage2 b6 q ac3 ac4 b1
  let b7 ← compPStage3 up b3 mode
  let p ← step11 b7 b4
  compPStage4 p

/-- CompT on the registers COMP_T reads (R104, R143, R183). -/
def compTOf (s : State) : Except ArithError (Int × Int) :=
  compT s.ut.toInt (calValue s.cal .ac5) (calValue s.cal .ac6) (calValue s.cal .mc) (calValue s.cal .md)

/-- CompP on the registers COMP_P reads (R104, R143, R184). -/
def compPOf (s : State) : Except ArithError Int :=
  compP s.b5.toInt (s.up.toNat : Int) s.mode.toNat (calValue s.cal .ac1) (calValue s.cal .ac2)
    (calValue s.cal .ac3) (calValue s.cal .ac4) (calValue s.cal .b1) (calValue s.cal .b2)

/-- The µops of COMP_T (R183). -/
def uopsCompT : List UOp := [.exec .compT]

/-- The preconditions of COMP_T: NOCAL, then NODATA unless UT_VALID = 1 (R183, R243). -/
def checkCompT (s : State) : Option ErrCode := needCalAnd s.utValid s

/-- The start effects of COMP_T (R183): the sample is consumed. -/
def startCompT (s : State) : State := { s with utValid := false, b5Valid := false, tValid := false }

/-- The commit of COMP_T (R183): B5, T10 and TEMP_C with their flags, or the pipeline's error (R182). -/
def commitCompT (s : State) : Except ErrCode State :=
  match compTOf s with
  | .error e => .error e.code
  | .ok (b5, t10) =>
    .ok { s with
      b5 := BitVec.ofInt 32 b5, b5Valid := true, t10 := BitVec.ofInt 32 t10, tempC := tempCOf t10, tValid := true }

/-- COMP_T written to CMD (R183). -/
def execCompT (s : State) : Host.Outcome State Fault Refusal :=
  .next (issueCommand .compT (checkCompT s) startCompT (primList uopsCompT) s)

/-- The µops of COMP_P (R184). -/
def uopsCompP : List UOp := [.exec .compP]

/-- The preconditions of COMP_P: NOCAL, then NODATA unless UP_VALID = 1 and B5_VALID = 1 (R184, R243). -/
def checkCompP (s : State) : Option ErrCode := needCalAnd (s.upValid && s.b5Valid) s

/-- The start effects of COMP_P (R184): the sample and B5 are consumed. -/
def startCompP (s : State) : State := { s with upValid := false, b5Valid := false, pValid := false }

/-- The commit of COMP_P (R184): PRES and P_VALID, or the pipeline's error (R182). -/
def commitCompP (s : State) : Except ErrCode State :=
  match compPOf s with
  | .error e => .error e.code
  | .ok pres => .ok { s with pres := BitVec.ofInt 32 pres, pValid := true }

/-- COMP_P written to CMD (R184). -/
def execCompP (s : State) : Host.Outcome State Fault Refusal :=
  .next (issueCommand .compP (checkCompP s) startCompP (primList uopsCompP) s)

end Sys2Proof.Machine
end

