-- ==== Sys2Proof/Machine/Sampling.lean ====
section
/-! DEFINITION. SAMPLE_T and SAMPLE_P (R150 to R159). -/

namespace Sys2Proof.Machine

/-- The µops of SAMPLE_T; the settle time does not depend on MODE (R150, R151). -/
def uopsSampleT (p : Params) : List UOp :=
  [.txWrite p.ctrlReg p.cmdTemp, .wait p.tSettleT, .txRead p.dataReg 2 .rxbuf, .exec .sampleT]

/-- The precondition of SAMPLE_T (R150, R243). -/
def checkSampleT (s : State) : Option ErrCode := needCal s

/-- The start effects of SAMPLE_T: UT_VALID <- 0 (R150). -/
def startSampleT (s : State) : State := { s with utValid := false }

/-- The commit of SAMPLE_T: UT <- the 16-bit pattern read, UT_VALID <- 1 (R108, R150). -/
def commitSampleT (s : State) : Except ErrCode State :=
  .ok { s with ut := BitVec.ofNat 16 (be16 s.rxbuf), utValid := true }

/-- SAMPLE_T written to CMD (R150). -/
def execSampleT (s : State) : Host.Outcome State Fault Refusal :=
  .next (issueCommand .sampleT (checkSampleT s) startSampleT (primList (uopsSampleT s.params)) s)

/-- The µops of SAMPLE_P in a mode (R155, R157). -/
def uopsSampleP (p : Params) (mode : BitVec 2) : List UOp :=
  [.txWrite p.ctrlReg (presByte p mode), .wait (modeGet p.tSettleP mode), .txRead p.dataReg 3 .rxbuf,
    .exec .sampleP]

/-- The precondition of SAMPLE_P (R155, R243). -/
def checkSampleP (s : State) : Option ErrCode := needCal s

/-- The start effects of SAMPLE_P: UP_VALID <- 0 (R155). -/
def startSampleP (s : State) : State := { s with upValid := false }

/-- The raw pressure of three bytes in a mode: `raw24 >> (8 - MODE)` (R109, R155). -/
def rawPressure (mode : BitVec 2) (bs : List Byte) : Nat := be24 bs >>> (8 - mode.toNat)

/-- The commit of SAMPLE_P: UP <- the shifted raw value, UP_VALID <- 1 (R155). -/
def commitSampleP (s : State) : Except ErrCode State :=
  .ok { s with up := BitVec.ofNat 32 (rawPressure s.mode s.rxbuf), upValid := true }

/-- SAMPLE_P written to CMD (R155). -/
def execSampleP (s : State) : Host.Outcome State Fault Refusal :=
  .next (issueCommand .sampleP (checkSampleP s) startSampleP (primList (uopsSampleP s.params s.mode)) s)

end Sys2Proof.Machine
end

