-- ==== Sys2Proof/Machine/Public.lean ====
section
/-! DEFINITION. The public commands (R220 to R226): each is accepted with CAL_VALID = 1 alone, clears the
flags of the results it will write, and runs the µops of its phases. -/

namespace Sys2Proof.Machine

/-- The µops of READ_TEMPERATURE: the phases SAMPLE_T and COMP_T (R221). -/
def listReadTemperature (p : Params) : List Slot :=
  phaseList .sampleT (uopsSampleT p) ++ phaseList .compT uopsCompT

/-- The µops of READ_PRESSURE: the phases SAMPLE_T, COMP_T, SAMPLE_P and COMP_P (R222). -/
def listReadPressure (p : Params) (mode : BitVec 2) : List Slot :=
  listReadTemperature p ++ phaseList .sampleP (uopsSampleP p mode) ++ phaseList .compP uopsCompP

/-- The µops of READ_ALTITUDE: those of READ_PRESSURE, then the phase ALT (R223). -/
def listReadAltitude (p : Params) (mode : BitVec 2) : List Slot :=
  listReadPressure p mode ++ phaseList .alt uopsAlt

/-- The µops of READ_SEALEVEL: those of READ_PRESSURE, then the phase SLP (R224). -/
def listReadSealevel (p : Params) (mode : BitVec 2) : List Slot :=
  listReadPressure p mode ++ phaseList .slp uopsSlp

/-- The acceptance start effects of READ_TEMPERATURE (R221). -/
def startReadTemperature (s : State) : State := { s with tValid := false }

/-- The acceptance start effects of READ_PRESSURE (R222). -/
def startReadPressure (s : State) : State := { s with tValid := false, pValid := false }

/-- The acceptance start effects of READ_ALTITUDE (R223). -/
def startReadAltitude (s : State) : State := { s with tValid := false, pValid := false, altValid := false }

/-- The acceptance start effects of READ_SEALEVEL (R224). -/
def startReadSealevel (s : State) : State := { s with tValid := false, pValid := false, slpValid := false }

/-- READ_TEMPERATURE written to CMD (R221). -/
def execReadTemperature (s : State) : Host.Outcome State Fault Refusal :=
  .next (issueCommand .readTemperature (needCal s) startReadTemperature (listReadTemperature s.params) s)

/-- READ_PRESSURE written to CMD (R222). -/
def execReadPressure (s : State) : Host.Outcome State Fault Refusal :=
  .next (issueCommand .readPressure (needCal s) startReadPressure (listReadPressure s.params s.mode) s)

/-- READ_ALTITUDE written to CMD (R223). -/
def execReadAltitude (s : State) : Host.Outcome State Fault Refusal :=
  .next (issueCommand .readAltitude (needCal s) startReadAltitude (listReadAltitude s.params s.mode) s)

/-- READ_SEALEVEL written to CMD (R224). -/
def execReadSealevel (s : State) : Host.Outcome State Fault Refusal :=
  .next (issueCommand .readSealevel (needCal s) startReadSealevel (listReadSealevel s.params s.mode) s)

end Sys2Proof.Machine
end

