-- ==== Sys2Proof/Machine/Engine.lean ====
section
/-! DEFINITION. The engine: one µop per engine step, in list order (R48, R88), the transport transactions
(R79, R80), the settle wait (R287), the beginning of a phase (R220) and reset (R280). -/

namespace Sys2Proof.Machine

/-- The failing precondition of a primitive command, checked when its phase begins (R220, R243). -/
def checkPrim (p : Prim) (s : State) : Option ErrCode :=
  match p with
  | .loadCal => checkLoadCal s
  | .sampleT => checkSampleT s
  | .sampleP => checkSampleP s
  | .compT => checkCompT s
  | .compP => checkCompP s
  | .alt => checkAlt s
  | .slp => checkSlp s

/-- The start effects of a primitive command (R51). -/
def startPrim (p : Prim) (s : State) : State :=
  match p with
  | .loadCal => startLoadCal s
  | .sampleT => startSampleT s
  | .sampleP => startSampleP s
  | .compT => startCompT s
  | .compP => startCompP s
  | .alt => startAlt s
  | .slp => startSlp s

/-- The compute-and-commit function f of `Exec(f)` (R48). -/
def commitPrim (p : Prim) (s : State) : Except ErrCode State :=
  match p with
  | .loadCal => commitLoadCal s
  | .sampleT => commitSampleT s
  | .sampleP => commitSampleP s
  | .compT => commitCompT s
  | .compP => commitCompP s
  | .alt => commitAlt s
  | .slp => commitSlp s

/-- The beginning of a phase, in the engine step of its first µop (R220 item 3; log 8): its preconditions
are checked and its start effects happen. Nothing happens where no phase begins. -/
def beginPhase (begins : Option Prim) (s : State) : Except ErrCode State :=
  match begins with
  | none => .ok s
  | some p =>
    match checkPrim p s with
    | some e => .error e
    | none => .ok (startPrim p s)

/-- Where the bytes of a TxRead go (R48): a staging register as a 16-bit value, or RXBUF
(log 15). -/
def storeBytes (dst : Dst) (bs : List Byte) (s : State) : State :=
  match dst with
  | .stg k => { s with stg := calSet s.stg k (BitVec.ofNat 16 (be16 bs)) }
  | .rxbuf => { s with rxbuf := bs }

/-- The transaction at the head of the list has no answer: it stays in flight with BUSY = 1 (R289). The
µop remains at the head; if it began a phase, the phase has begun (log 6, log 17). -/
def holdTransaction (cmd : Instr) (op : UOp) (rest : List Slot) (s : State) : State :=
  { s with inFlight := true, seq := .run cmd (⟨none, op⟩ :: rest) }

/-- `TxWrite(reg8, val8)` (R80). -/
def runTxWrite (cmd : Instr) (reg val : Byte) (rest : List Slot) (s : State) : State :=
  match s.answers with
  | .ok _ :: later =>
    advance cmd rest (record (.txWrite s.devAddr reg val true) { s with answers := later, inFlight := false })
  | .fail :: later =>
    raiseError .transport
      (record (.txWrite s.devAddr reg val false) { s with answers := later, inFlight := false })
  | .never :: _ => holdTransaction cmd (.txWrite reg val) rest s
  | [] => holdTransaction cmd (.txWrite reg val) rest s

/-- `TxRead(reg8, n) -> dst` (R79): a failure or a list whose length is not n raises TRANSPORT and stores
nothing. -/
def runTxRead (cmd : Instr) (reg : Byte) (n : Nat) (dst : Dst) (rest : List Slot) (s : State) : State :=
  match s.answers with
  | .ok bs :: later =>
    let s' := record (.txRead s.devAddr reg n (some bs)) { s with answers := later, inFlight := false }
    if bs.length = n then advance cmd rest (storeBytes dst bs s') else raiseError .transport s'
  | .fail :: later =>
    raiseError .transport (record (.txRead s.devAddr reg n none) { s with answers := later, inFlight := false })
  | .never :: _ => holdTransaction cmd (.txRead reg n dst) rest s
  | [] => holdTransaction cmd (.txRead reg n dst) rest s

/-- `Wait(t)`: one engine step that records t and starts the settle timer (R287, R94; log 13). -/
def runWait (cmd : Instr) (t : Nat) (rest : List Slot) (s : State) : State :=
  advance cmd rest (record (.wait t) { s with timer := t })

/-- `Exec(f)`: commits everything or raises and commits nothing (R48, R182, R246). -/
def runExec (cmd : Instr) (f : Prim) (rest : List Slot) (s : State) : State :=
  match commitPrim f s with
  | .ok s' => advance cmd rest (record (.exec cmd f) s')
  | .error e => raiseError e (record (.exec cmd f) s)

/-- One µop of the running command (R48). -/
def runOp (cmd : Instr) (op : UOp) (rest : List Slot) (s : State) : State :=
  match op with
  | .txWrite reg val => runTxWrite cmd reg val rest s
  | .txRead reg n dst => runTxRead cmd reg n dst rest s
  | .wait t => runWait cmd t rest s
  | .exec f => runExec cmd f rest s

/-- The µop at the head of the list, after the beginning of the phase it begins, if any (R220). -/
def runSlot (cmd : Instr) (slot : Slot) (rest : List Slot) (s : State) : State :=
  match beginPhase slot.begins s with
  | .error e => raiseError e s
  | .ok s' => runOp cmd slot.op rest s'

/-- One engine step (R48): an idle engine does nothing; a running one performs exactly the µop at the head
of its list. A running Wait is over before it: at least its time has passed (R287), so no time remains
(log 13). -/
def engineStep (s : State) : State :=
  match s.seq with
  | .idle => { s with timer := 0 }
  | .run _ [] => finish { s with timer := 0 }
  | .run cmd (slot :: rest) => runSlot cmd slot rest { s with timer := 0 }

/-- `us` microseconds pass while the engine takes no step (R287, R254). -/
def elapseTime (us : Nat) (s : State) : State := { s with timer := s.timer - us }

/-- Reset with its construction inputs (R280): every piece of state takes its reset value, a running command
and its Wait are abandoned without an error code, and the outcome of a transaction in flight is ignored.
What is not the block's (the parameters, what happens next, the answers to later transactions, the event
record) stays (log 6, log 12). -/
def applyReset (mode : BitVec 2) (devAddr : Byte) (s : State) : State :=
  { State.resetWith mode devAddr s.params with
    agenda := s.agenda
    answers := if s.inFlight then s.answers.drop 1 else s.answers
    trace := s.trace
    nanCount := s.nanCount }

end Sys2Proof.Machine
end

