-- ==== Sys2Proof/Machine/HostPort.lean ====
section
/-! DEFINITION. The host register interface (R71 to R77, R112), but for the write of a legal code to CMD,
which is `exec`. -/

namespace Sys2Proof.Machine

/-- The value a host read of a register returns: its pattern in the low bits and zeros above (R72). CMD is
write-only (R112). -/
def readReg (r : HostReg) (s : State) : Option (BitVec 64) :=
  match r with
  | .cmd => none
  | .status => some ((statusWord s).setWidth 64)
  | .cfg => some ((cfgWord s).setWidth 64)
  | .cal k => some ((calGet s.cal k).setWidth 64)
  | .ut => some (s.ut.setWidth 64)
  | .up => some (s.up.setWidth 64)
  | .b5 => some (s.b5.setWidth 64)
  | .t10 => some (s.t10.setWidth 64)
  | .tempC => some s.tempC
  | .pres => some (s.pres.setWidth 64)
  | .altOut => some s.altOut
  | .slpOut => some s.slpOut
  | .sealevelIn => some s.sealevelIn
  | .altitudeIn => some s.altitudeIn

/-- The response and data of `HostRead(idx)` (R71, R75): an unmapped index and CMD answer DECERR and 0. -/
def readAnswer (idx : Byte) (s : State) : Resp × BitVec 64 :=
  match (decodeIndex idx).bind fun r => readReg r s with
  | some data => (.ok, data)
  | none => (.decerr, 0)

/-- `HostRead(idx)`: no register changes; the access is recorded (R71, R94). -/
def hostRead (idx : Byte) (s : State) : State :=
  record (.hostRead idx (readAnswer idx s).1 (readAnswer idx s).2) s

/-- `HostWrite(idx, data)` for every access that does not carry a legal command code: an illegal code
(R102), an operand register (R45, R73, R74), or a target that answers DECERR and changes nothing (R75). -/
def writeOther (idx : Byte) (data : BitVec 64) (s : State) : Resp × State :=
  match decodeIndex idx with
  | some .cmd => (.ok, issueIllegal (codeField data) s)
  | some .sealevelIn => (.ok, if busy s then dropWrite s else { s with sealevelIn := data })
  | some .altitudeIn => (.ok, if busy s then dropWrite s else { s with altitudeIn := data })
  | some .status | some .cfg | some (.cal _) | some .ut | some .up | some .b5 | some .t10 | some .tempC
  | some .pres | some .altOut | some .slpOut => (.decerr, s)
  | none => (.decerr, s)

/-- Such a write, recorded (R94). -/
def hostWriteOther (idx : Byte) (data : BitVec 64) (s : State) : State :=
  record (.hostWrite idx data (writeOther idx data s).1) (writeOther idx data s).2

/-- One turn of the `poll` loop (R106): the host reads STATUS; while BUSY = 1 the engine takes a step and
the host reads again (log 9). -/
def pollTurn (s : State) : State :=
  let s' := hostRead (indexOf .status) s
  if busy s then { s' with agenda := .engine :: .poll :: s'.agenda } else s'

end Sys2Proof.Machine
end

