-- ==== Sys2Proof/Machine/Dispatch.lean ====
section
/-! DEFINITION. The meaning of each command: what a write of its code to CMD does (R242; log 20). -/

namespace Sys2Proof.Machine

def exec (i : Instr) (s : State) : Host.Outcome State Fault Refusal :=
  match i with
  | .loadCal => Sys2Proof.Machine.execLoadCal s
  | .sampleT => Sys2Proof.Machine.execSampleT s
  | .sampleP => Sys2Proof.Machine.execSampleP s
  | .compT => Sys2Proof.Machine.execCompT s
  | .compP => Sys2Proof.Machine.execCompP s
  | .alt => Sys2Proof.Machine.execAlt s
  | .slp => Sys2Proof.Machine.execSlp s
  | .readTemperature => Sys2Proof.Machine.execReadTemperature s
  | .readPressure => Sys2Proof.Machine.execReadPressure s
  | .readAltitude => Sys2Proof.Machine.execReadAltitude s
  | .readSealevel => Sys2Proof.Machine.execReadSealevel s

end Sys2Proof.Machine
end

