-- ==== Sys2Proof/Machine/Schedule.lean ====
section
/-! DEFINITION. What one event of the total order of R77 does: the step of each stimulus, and the host write
that a command word stands for. -/

namespace Sys2Proof.Machine

/-- Record the host write that issued a command (R94). -/
def recordIssue (idx : Byte) (data : BitVec 64) :
    Host.Outcome State Fault Refusal → Host.Outcome State Fault Refusal
  | .next s => .next (record (.hostWrite idx data .ok) s)
  | .fault r => .fault r
  | .refused r => .refused r

/-- What one stimulus does (R77): a host access, a turn of the poll loop, an engine step, time passing, or
reset. A host write that carries a legal command code runs that command's meaning. -/
def stimulusStep (x : Stimulus) (s : State) : Host.Outcome State Fault Refusal :=
  match x with
  | .hostRead idx => .next (hostRead idx s)
  | .hostWrite idx data =>
    match commandOf idx data with
    | some i => recordIssue idx data (exec i s)
    | none => .next (hostWriteOther idx data s)
  | .poll => .next (pollTurn s)
  | .engine => .next (engineStep s)
  | .elapse us => .next (elapseTime us s)
  | .reset mode devAddr => .next (applyReset mode devAddr s)

/-- The host write of a command word to CMD: the low `nbits` bits of the word (R73, R100). -/
def issueWord (nbits w : Nat) : Stimulus :=
  .hostWrite (indexOf .cmd) ((BitVec.ofNat 8 (w % 2 ^ nbits)).setWidth 64)

end Sys2Proof.Machine
end

