-- ==== Sys2Proof/Machine/Step.lean ====
section
/-! DEFINITION. One step of the block: the next event of the total order of R77. -/

namespace Sys2Proof.Machine

/-- One step: the first entry of the agenda happens; when the agenda is empty the outside world does
nothing more and the engine takes its steps (R77). -/
def step (s : State) : Host.Outcome State Fault Refusal :=
  match s.agenda with
  | [] => .next (engineStep s)
  | x :: later => stimulusStep x { s with agenda := later }

/-- The state whose next step is the host's write of the given command word to CMD: PTCE fetches nothing
(R91), so the word is placed where commands come from, at the front of the agenda (log 5). -/
def State.withFetchWord (s : State) (nbits w : Nat) : State :=
  { s with agenda := issueWord nbits w :: s.agenda }

end Sys2Proof.Machine
end

