-- ==== Sys2Proof/Safety.lean ====
section
/-! DEFINITION. What counts as a sound state of PTCE: the invariants that statements about runs use. -/

namespace Sys2Proof.Safety

open Sys2Proof Sys2Proof.Machine

/-- `n` steps of the machine lead from the first state to the second. -/
def Runs : Nat → State → State → Prop
  | 0, s, u => s = u
  | n + 1, s, u => ∃ t, step s = .next t ∧ Runs n t u

/-- The whole µop list of each command, in order (R142 to R224). -/
def programOf (i : Instr) (p : Params) (mode : BitVec 2) : List Slot :=
  match i with
  | .loadCal => primList (uopsLoadCal p)
  | .sampleT => primList (uopsSampleT p)
  | .sampleP => primList (uopsSampleP p mode)
  | .compT => primList uopsCompT
  | .compP => primList uopsCompP
  | .alt => primList uopsAlt
  | .slp => primList uopsSlp
  | .readTemperature => listReadTemperature p
  | .readPressure => listReadPressure p mode
  | .readAltitude => listReadAltitude p mode
  | .readSealevel => listReadSealevel p mode

/-- `list` is a tail of `program`; at its head the beginning of a phase may already have happened. -/
def isTailOf (list program : List Slot) : Bool :=
  match list, program.drop (program.length - list.length) with
  | x :: xs, h :: r => x.op == h.op && (x.begins == none || x.begins == h.begins) && xs == r
  | _, _ => false

/-- The sequencer is idle or holds a tail of the running command's own µop list (R47, R48). -/
def seqLegal (s : State) : Bool :=
  match s.seq with
  | .idle => true
  | .run cmd list => isTailOf list (programOf cmd s.params s.mode)

/-- The data preconditions of the phases still to begin will hold when they begin (R220), given the present
UT_VALID, UP_VALID, B5_VALID and P_VALID: each phase's data is produced by the phase before it. -/
def phasesReady (ut up b5 p : Bool) : List Slot → Bool
  | [] => true
  | slot :: rest =>
    let needs :=
      match slot.begins with
      | some .compT => ut
      | some .compP => up && b5
      | some .alt => p
      | some .slp => p
      | some .loadCal => false
      | some .sampleT => true
      | some .sampleP => true
      | none => true
    let ut1 := ut && slot.begins != some .sampleT && slot.begins != some .compT
    let up1 := up && slot.begins != some .sampleP && slot.begins != some .compP
    let b51 := b5 && slot.begins != some .compT && slot.begins != some .compP
    let p1 := p && slot.begins != some .compP
    needs
      && phasesReady (ut1 || slot.op == .exec .sampleT) (up1 || slot.op == .exec .sampleP)
          (b51 || slot.op == .exec .compT) (p1 || slot.op == .exec .compP) rest

/-- The remaining list of the sequencer; empty when idle. -/
def remaining (s : State) : List Slot :=
  match s.seq with
  | .idle => []
  | .run _ list => list

/-- The running command, if any. -/
def running (s : State) : Option Instr :=
  match s.seq with
  | .idle => none
  | .run cmd _ => some cmd

/-- Before a successful LOAD_CAL nothing is valid and the calibration file holds its reset value (R34,
R144), and only LOAD_CAL can run; after it LOAD_CAL cannot run (R35, R243). -/
def calCoherent (s : State) : Bool :=
  if s.calValid then running s != some .loadCal
  else
    s.cal == calZero && !s.utValid && !s.upValid && !s.b5Valid && !s.tValid && !s.pValid && !s.altValid
      && !s.slpValid && (running s == none || running s == some .loadCal)

/-- UP is below 2^(16 + MODE) (R39, R156). -/
def upInRange (s : State) : Bool := decide (s.up.toNat < 2 ^ (16 + s.mode.toNat))

/-- A valid pressure is at least 236 (property Q3 of the test vectors, used by R207). -/
def presPositive (s : State) : Bool := !s.pValid || decide (236 ≤ s.pres.toInt)

/-- Whether a list begins with a transport transaction. -/
def headIsTransaction : List Slot → Bool
  | ⟨_, .txWrite _ _⟩ :: _ => true
  | ⟨_, .txRead _ _ _⟩ :: _ => true
  | ⟨_, .wait _⟩ :: _ => false
  | ⟨_, .exec _⟩ :: _ => false
  | [] => false

/-- A running command has recorded no error (R242, R246), and a Wait or a transaction in flight belongs to
a running command (R49). -/
def runCoherent (s : State) : Bool :=
  if busy s then s.err == .none && (!s.inFlight || headIsTransaction (remaining s))
  else s.timer == 0 && !s.inFlight

/-- RXBUF holds at most 3 bytes (R48). -/
def rxbufShort (s : State) : Bool := decide (s.rxbuf.length ≤ 3)

/-- The valid flag of the result a public command returns (R225); none for a primitive command. -/
def resultFlag (cmd : Instr) (s : State) : Option Bool :=
  match cmd with
  | .readTemperature => some s.tValid
  | .readPressure => some s.pValid
  | .readAltitude => some s.altValid
  | .readSealevel => some s.slpValid
  | .loadCal => none
  | .sampleT => none
  | .sampleP => none
  | .compT => none
  | .compP => none
  | .alt => none
  | .slp => none

/-- After the public command `cmd`, its result's flag is 1 exactly when ERR = NONE (R225). -/
def resultTold (cmd : Instr) (s : State) : Bool :=
  s.lastCmd != codeOf cmd || resultFlag cmd s == some (s.err == .none)

/-- While a command runs, LAST_CMD is its code and the result it will return is not valid yet; once the block
is idle, the last public command's result is valid exactly when ERR = NONE (R220, R225). -/
def resultCoherent (s : State) : Bool :=
  match running s with
  | some cmd => s.lastCmd == codeOf cmd && resultFlag cmd s != some true
  | none =>
    resultTold .readTemperature s && resultTold .readPressure s && resultTold .readAltitude s
      && resultTold .readSealevel s

/-- Everything every step keeps. -/
def Coherent (s : State) : Prop :=
  seqLegal s = true ∧ calCoherent s = true ∧ upInRange s = true ∧ presPositive s = true ∧ runCoherent s = true
    ∧ rxbufShort s = true ∧ phasesReady s.utValid s.upValid s.b5Valid s.pValid (remaining s) = true
    ∧ resultCoherent s = true

/-- What is left of an event record without the host's reads. -/
def withoutReads (t : List Event) : List Event :=
  t.filter fun e => match e with
    | .hostRead _ _ _ => false
    | .hostWrite _ _ _ => true
    | .txWrite _ _ _ _ => true
    | .txRead _ _ _ _ => true
    | .wait _ => true
    | .exec _ _ => true

end Sys2Proof.Safety
end

