-- ==== Sys2Proof/Certificates/Slice0/Obligations.lean ====
section
/-! DEFINITION. The statements for the provers, and the tables of the spec they are stated with. -/

open Sys2Proof Sys2Proof.Machine Sys2Proof.Safety

namespace Sys2Proof.Spec

/-- The precondition table of R243, each row in its order: the error of the first failing check. -/
def refusal (i : Instr) (s : State) : Option ErrCode :=
  match i with
  | .loadCal => if s.calValid then some .reload else none
  | .sampleT => if s.calValid then none else some .nocal
  | .sampleP => if s.calValid then none else some .nocal
  | .compT => if !s.calValid then some .nocal else if s.utValid then none else some .nodata
  | .compP =>
    if !s.calValid then some .nocal else if s.upValid && s.b5Valid then none else some .nodata
  | .alt => if !s.calValid then some .nocal else if s.pValid then none else some .nodata
  | .slp => if !s.calValid then some .nocal else if s.pValid then none else some .nodata
  | .readTemperature => if s.calValid then none else some .nocal
  | .readPressure => if s.calValid then none else some .nocal
  | .readAltitude => if s.calValid then none else some .nocal
  | .readSealevel => if s.calValid then none else some .nocal

/-- The "start clears" column of the write matrix R51. -/
def startClears (i : Instr) (s : State) : State :=
  match i with
  | .loadCal => s
  | .sampleT => { s with utValid := false }
  | .sampleP => { s with upValid := false }
  | .compT => { s with utValid := false, b5Valid := false, tValid := false }
  | .compP => { s with upValid := false, b5Valid := false, pValid := false }
  | .alt => { s with altValid := false }
  | .slp => { s with slpValid := false }
  | .readTemperature => { s with tValid := false }
  | .readPressure => { s with tValid := false, pValid := false }
  | .readAltitude => { s with tValid := false, pValid := false, altValid := false }
  | .readSealevel => { s with tValid := false, pValid := false, slpValid := false }

/-- The µops of SAMPLE_T, as R150 lists them. -/
def sampleTOps (p : Params) : List UOp :=
  [.txWrite p.ctrlReg p.cmdTemp, .wait p.tSettleT, .txRead p.dataReg 2 .rxbuf, .exec .sampleT]

/-- The settle time of a mode (R157). -/
def settleP (p : Params) (mode : BitVec 2) : Nat :=
  if mode = 0 then p.tSettleP.ultraLowPower
  else if mode = 1 then p.tSettleP.standard
  else if mode = 2 then p.tSettleP.highRes
  else p.tSettleP.ultraHighRes

/-- The conversion byte of SAMPLE_P: CMD_PRES with MODE ORed into bits 7:6 (R107). -/
def presCommand (p : Params) (mode : BitVec 2) : Byte := p.cmdPres ||| (mode ++ (0 : BitVec 6))

/-- The µops of SAMPLE_P, as R155 lists them. -/
def samplePOps (p : Params) (mode : BitVec 2) : List UOp :=
  [.txWrite p.ctrlReg (presCommand p mode), .wait (settleP p mode), .txRead p.dataReg 3 .rxbuf, .exec .sampleP]

/-- The µops of a public command up to COMP_P, with the phase each begins (R222). -/
def pressureOps (p : Params) (mode : BitVec 2) : List UOp :=
  sampleTOps p ++ [.exec .compT] ++ samplePOps p mode ++ [.exec .compP]

/-- The µop list of each command (R142 to R224). -/
def opsOf (i : Instr) (p : Params) (mode : BitVec 2) : List UOp :=
  match i with
  | .loadCal =>
    [.txRead p.calAddr.ac1 2 (.stg .ac1), .txRead p.calAddr.ac2 2 (.stg .ac2), .txRead p.calAddr.ac3 2 (.stg .ac3),
      .txRead p.calAddr.ac4 2 (.stg .ac4), .txRead p.calAddr.ac5 2 (.stg .ac5), .txRead p.calAddr.ac6 2 (.stg .ac6),
      .txRead p.calAddr.b1 2 (.stg .b1), .txRead p.calAddr.b2 2 (.stg .b2), .txRead p.calAddr.mb 2 (.stg .mb),
      .txRead p.calAddr.mc 2 (.stg .mc), .txRead p.calAddr.md 2 (.stg .md), .exec .loadCal]
  | .sampleT => sampleTOps p
  | .sampleP => samplePOps p mode
  | .compT => [.exec .compT]
  | .compP => [.exec .compP]
  | .alt => [.exec .alt]
  | .slp => [.exec .slp]
  | .readTemperature => sampleTOps p ++ [.exec .compT]
  | .readPressure => pressureOps p mode
  | .readAltitude => pressureOps p mode ++ [.exec .alt]
  | .readSealevel => pressureOps p mode ++ [.exec .slp]

/-- Two bytes of the transport for each constant. -/
abbrev CalBytes := CalTable (Byte × Byte)

/-- The eleven pairs in the order k = 0..10. -/
def pairs (t : CalBytes) : List (Byte × Byte) :=
  [t.ac1, t.ac2, t.ac3, t.ac4, t.ac5, t.ac6, t.b1, t.b2, t.mb, t.mc, t.md]

/-- The answers that give these bytes. -/
def pairAnswers (l : List (Byte × Byte)) : List Answer := l.map fun b => .ok [b.1, b.2]

/-- The big-endian patterns of the pairs (R110): the first byte is the most significant. -/
def patterns (t : CalBytes) : CalTable Half :=
  ⟨t.ac1.1 ++ t.ac1.2, t.ac2.1 ++ t.ac2.2, t.ac3.1 ++ t.ac3.2, t.ac4.1 ++ t.ac4.2, t.ac5.1 ++ t.ac5.2,
    t.ac6.1 ++ t.ac6.2, t.b1.1 ++ t.b1.2, t.b2.1 ++ t.b2.2, t.mb.1 ++ t.mb.2, t.mc.1 ++ t.mc.2, t.md.1 ++ t.md.2⟩

/-- The eleven sensor addresses in the order k = 0..10 (R7). -/
def addresses (a : CalTable Byte) : List Byte :=
  [a.ac1, a.ac2, a.ac3, a.ac4, a.ac5, a.ac6, a.b1, a.b2, a.mb, a.mc, a.md]

/-- The events of the reads of LOAD_CAL that gave these pairs, from k = 0 on. -/
def calEvents (dev : Byte) (a : CalTable Byte) (l : List (Byte × Byte)) : List Event :=
  List.zipWith (fun reg b => .txRead dev reg 2 (some [b.1, b.2])) (addresses a) l

/-- What the record holds of a read's answer: its bytes, or nothing for a failure (R94). -/
def readOutcome : Answer → Option (List Byte)
  | .ok bs => some bs
  | .fail => none
  | .never => none

/-- UP of a raw 24-bit pressure in a mode (R109): the bits 23 down to 8 - MODE. -/
def upOf (mode : BitVec 2) (raw24 : BitVec 24) : Word := (raw24 >>> (8 - mode.toNat)).setWidth 32

/-- The events of a temperature sample (R150). -/
def sampleTEvents (s : State) (cmd : Instr) (b0 b1 : Byte) : List Event :=
  [.txWrite s.devAddr s.params.ctrlReg s.params.cmdTemp true, .wait s.params.tSettleT,
    .txRead s.devAddr s.params.dataReg 2 (some [b0, b1]), .exec cmd .sampleT]

/-- The events of a pressure sample (R155). -/
def samplePEvents (s : State) (cmd : Instr) (p0 p1 p2 : Byte) : List Event :=
  [.txWrite s.devAddr s.params.ctrlReg (presCommand s.params s.mode) true, .wait (settleP s.params s.mode),
    .txRead s.devAddr s.params.dataReg 3 (some [p0, p1, p2]), .exec cmd .sampleP]

/-- CompT on a raw temperature with a calibration, each constant with its interpretation (R143). -/
def temperature (c : CalTable Half) (ut : Half) : Except ArithError (Int × Int) :=
  compT ut.toInt c.ac5.toNat c.ac6.toNat c.mc.toInt c.md.toInt

/-- CompP on B5 and a raw pressure with a calibration, in a mode (R143). -/
def pressure (c : CalTable Half) (mode : BitVec 2) (b5 : Int) (up : Word) : Except ArithError Int :=
  compP b5 up.toNat mode.toNat c.ac1.toInt c.ac2.toInt c.ac3.toInt c.ac4.toNat c.b1.toInt c.b2.toInt

/-- What a successful READ_PRESSURE, or the same phases of READ_ALTITUDE and READ_SEALEVEL, leave of s
(R222): both samples consumed, a complete temperature and a complete pressure. -/
def afterPressure (s : State) (cmd : Instr) (b0 b1 p0 p1 p2 : Byte) (b5 t10 pres : Int) (later : List Answer) : State :=
  { s with
    ut := b0 ++ b1, utValid := false, up := upOf s.mode (p0 ++ p1 ++ p2), upValid := false, rxbuf := [p0, p1, p2],
    b5 := BitVec.ofInt 32 b5, b5Valid := false, t10 := BitVec.ofInt 32 t10, tempC := tempCOf t10, tValid := true,
    pres := BitVec.ofInt 32 pres, pValid := true, ovr := false, err := .none, lastCmd := codeOf cmd,
    timer := 0, inFlight := false, answers := later,
    trace := s.trace ++ sampleTEvents s cmd b0 b1 ++ [.exec cmd .compT] ++ samplePEvents s cmd p0 p1 p2
      ++ [.exec cmd .compP] }

/-- An idle block with nothing scheduled but the engine's own steps. -/
def Quiet (s : State) : Prop := s.seq = .idle ∧ s.agenda = []

/-- r is a binary64 value nearest num / den units of 2^-1074, ties to even: no finite value is nearer, and
where another one is as near, the fraction of r is even (R13). -/
def Nearest (num : Int) (den : Nat) (r : F64) : Prop :=
  f64IsFinite r = true ∧ ∀ y : F64, f64IsFinite y = true →
    (num - den * f64Units r).natAbs ≤ (num - den * f64Units y).natAbs
      ∧ ((num - den * f64Units r).natAbs = (num - den * f64Units y).natAbs → f64Units y ≠ f64Units r →
          f64Frac r % 2 = 0)

/-- The least magnitude, in units of 2^-1074, that rounds to an infinity: half a unit in the last place
above the largest finite value. -/
def overflowUnits : Nat := (2 ^ 54 - 1) * 2 ^ 2044

/-- CompP on the worked example's calibration in MODE 0 with B5 = 2400. -/
def examplePressure (up : Nat) : Except ArithError Int := compP 2400 up 0 408 (-72) (-14383) 32741 6190 4

/-- A stimulus that neither writes a register nor resets: the engine, time, or a host read. -/
def isPassive : Stimulus → Bool
  | .engine => true
  | .elapse _ => true
  | .hostRead _ => true
  | .hostWrite _ _ => false
  | .poll => false
  | .reset _ _ => false

/-- The host register map of R112, written out. -/
def registerMap : List (Byte × HostReg) :=
  [(0x00, .cmd), (0x01, .status), (0x02, .cfg),
    (0x10, .cal .ac1), (0x11, .cal .ac2), (0x12, .cal .ac3), (0x13, .cal .ac4), (0x14, .cal .ac5),
    (0x15, .cal .ac6), (0x16, .cal .b1), (0x17, .cal .b2), (0x18, .cal .mb), (0x19, .cal .mc), (0x1A, .cal .md),
    (0x20, .ut), (0x21, .up), (0x22, .b5),
    (0x30, .t10), (0x31, .tempC), (0x32, .pres), (0x33, .altOut), (0x34, .slpOut),
    (0x40, .sealevelIn), (0x41, .altitudeIn)]

/-- The unmapped ranges of R112, written out: 0x03 to 0x0F, 0x1B to 0x1F, 0x23 to 0x2F, 0x35 to 0x3F and
0x42 to 0xFF. -/
def unmapped (idx : Byte) : Prop :=
  (0x03 ≤ idx.toNat ∧ idx.toNat ≤ 0x0F) ∨ (0x1B ≤ idx.toNat ∧ idx.toNat ≤ 0x1F)
    ∨ (0x23 ≤ idx.toNat ∧ idx.toNat ≤ 0x2F) ∨ (0x35 ≤ idx.toNat ∧ idx.toNat ≤ 0x3F) ∨ 0x42 ≤ idx.toNat

/-- The four public commands (R220). -/
def isPublic (i : Instr) : Prop :=
  i = .readTemperature ∨ i = .readPressure ∨ i = .readAltitude ∨ i = .readSealevel

/-- The public commands with the phases of READ_PRESSURE (R222 to R224). -/
def readsPressure (i : Instr) : Prop := i = .readPressure ∨ i = .readAltitude ∨ i = .readSealevel

/-- An answer that a read of n bytes turns into TransportError (R79): a failure or a list of another length. -/
def badAnswer (n : Nat) (a : Answer) : Prop := a = .fail ∨ ∃ bs, a = .ok bs ∧ bs.length ≠ n

/-- A flag that was 0 is 1. -/
def raised (before after : Bool) : Prop := before = false ∧ after = true

/-- A flag that was 1 is 0. -/
def cleared (before after : Bool) : Prop := before = true ∧ after = false

/-- The command a phase is (R220 item 3). -/
def commandOfPhase : Prim → Instr
  | .loadCal => .loadCal
  | .sampleT => .sampleT
  | .sampleP => .sampleP
  | .compT => .compT
  | .compP => .compP
  | .alt => .alt
  | .slp => .slp

/-- The first failing precondition of the phase that begins with a µop, if one begins (R220 item 3, R243). -/
def phaseRefusal (begins : Option Prim) (s : State) : Option ErrCode :=
  begins.bind fun p => refusal (commandOfPhase p) s

/-- The start effects of the phase that begins with a µop, if one begins (R220 item 3, R51). -/
def phaseStart (begins : Option Prim) (s : State) : State :=
  match begins with
  | none => s
  | some p => startClears (commandOfPhase p) s

/-- What one µop does to a state in which its phase has begun, the sequencer and ERR apart: the error it
raises, if it raises one, and the state, with the one event of that µop (R48, R79, R80, R94, R246). None: the
µop is a transaction without an answer. -/
def uopEffect (cmd : Instr) (op : UOp) (s : State) : Option (Option ErrCode × State) :=
  let done := fun later e => { s with answers := later, inFlight := false, trace := s.trace ++ [e] }
  match op, s.answers with
  | .txWrite reg val, .ok _ :: later => some (none, done later (.txWrite s.devAddr reg val true))
  | .txWrite reg val, .fail :: later => some (some .transport, done later (.txWrite s.devAddr reg val false))
  | .txWrite _ _, _ => none
  | .txRead reg n dst, .ok bs :: later =>
    let u := done later (.txRead s.devAddr reg n (some bs))
    if bs.length ≠ n then some (some .transport, u)
    else
      match dst with
      | .stg k => some (none, { u with stg := calSet s.stg k (BitVec.ofNat 16 (be16 bs)) })
      | .rxbuf => some (none, { u with rxbuf := bs })
  | .txRead reg n _, .fail :: later => some (some .transport, done later (.txRead s.devAddr reg n none))
  | .txRead _ _ _, _ => none
  | .wait t, _ => some (none, { s with timer := t, trace := s.trace ++ [.wait t] })
  | .exec f, _ =>
    match commitPrim f s with
    | .ok u => some (none, { u with trace := s.trace ++ [.exec cmd f] })
    | .error e => some (some e, { s with trace := s.trace ++ [.exec cmd f] })

/-- One check of a pipeline: its label, the error it raises, and whether it passes. -/
structure Check where
  step : PipeStep
  code : ErrCode
  passes : Bool

/-- A lane check on a signed value (R12). -/
def signedLane (step : PipeStep) (v : Int) : Check := ⟨step, .range, decide (-2147483648 ≤ v ∧ v ≤ 2147483647)⟩

/-- A lane check on an unsigned value (R12). -/
def unsignedLane (step : PipeStep) (v : Int) : Check := ⟨step, .range, decide (0 ≤ v ∧ v ≤ 4294967295)⟩

/-- The checks of CompP in the listed order P1 to P14c, each on the value of the source's formula, and the
value of the last step (R175, R176, R179). -/
def compPChecks (b5 up : Int) (mode : Nat) (ac1 ac2 ac3 ac4 b1 b2 : Int) : List Check × Int :=
  let b6 := b5 - 4000
  let q := b6 * b6 / 4096
  let x3 := b2 * q / 2048 + ac2 * b6 / 2048
  let a := (ac1 * 4 + x3) * 2 ^ mode
  let b3 := Int.tdiv (a + 2) 4
  let y := ac3 * b6 / 8192 + b1 * q / 65536
  let u := (y + 2) / 4 + 32768
  let b4 := ac4 * u / 32768
  let v := up - b3
  let b7 := v * (50000 / 2 ^ mode)
  let low := b7 < 0x80000000
  let p := if low then Int.tdiv (b7 * 2) b4 else Int.tdiv b7 b4 * 2
  let r := p / 256
  let x1 := r * r * 3038
  let w := x1 / 65536 + -7357 * p / 65536
  ([signedLane .p1 b6, signedLane .p2a (b6 * b6), signedLane .p2b (b2 * q), signedLane .p3 (ac2 * b6),
      signedLane .p4 x3, signedLane .p5a (ac1 * 4), signedLane .p5b (ac1 * 4 + x3), signedLane .p5c a,
      signedLane .p5d (a + 2), signedLane .p6 (ac3 * b6), signedLane .p7 (b1 * q), signedLane .p8a y,
      signedLane .p8b (y + 2), unsignedLane .p9a u, unsignedLane .p9b (ac4 * u), unsignedLane .p10a v,
      unsignedLane .p10b b7, ⟨.p11, .div0P, b4 ≠ 0⟩]
      ++ (if low then [unsignedLane .p11a (b7 * 2), signedLane .p11b p] else [unsignedLane .p11c p, signedLane .p11d p])
      ++ [signedLane .p12a (r * r), signedLane .p12b x1, signedLane .p13 (-7357 * p), signedLane .p14a w,
        signedLane .p14b (w + 3791), signedLane .p14c (p + (w + 3791) / 16)],
    p + (w + 3791) / 16)

/-- How many engine steps a schedule grants. -/
def engineSteps (l : List Stimulus) : Nat := l.countP (· == .engine)

/-- The registers and flags, sequencer, answers and transport events of a state: what is left when the
schedule, the host's reads in the record and the time remaining in a Wait are put aside. -/
def engineView (s : State) : State :=
  { s with agenda := [], timer := 0, trace := Safety.withoutReads s.trace }

end Sys2Proof.Spec

open Sys2Proof.Spec

/-! ### Encoding and host map -/

/-- R102, R103: every 8-bit value is one command of R101 or illegal; the 245 other codes are refused by name. -/
def Obligations.DecodingIsTotalAndExact : Prop :=
  ∀ c : Byte,
    (∀ i : Instr, decodeCode c = .ok i ↔ codeOf i = c)
      ∧ (c.toNat = 0 ∨ 12 ≤ c.toNat ↔ decodeCode c = .error (.illegal c))

/-- R101: the codes of the table, written out. -/
def Obligations.WrittenCodesDecode : Prop :=
  decode [0x01] = .ok (.loadCal, []) ∧ decode [0x02] = .ok (.sampleT, []) ∧ decode [0x03] = .ok (.sampleP, [])
    ∧ decode [0x04] = .ok (.compT, []) ∧ decode [0x05] = .ok (.compP, []) ∧ decode [0x06] = .ok (.alt, [])
    ∧ decode [0x07] = .ok (.slp, []) ∧ decode [0x08] = .ok (.readTemperature, [])
    ∧ decode [0x09] = .ok (.readPressure, []) ∧ decode [0x0A] = .ok (.readAltitude, [])
    ∧ decode [0x0B] = .ok (.readSealevel, []) ∧ decode [0x00] = .error (.illegal 0x00)
    ∧ decode [0x0C] = .error (.illegal 0x0C)

/-- Decode and encode agree on every command, whatever bytes follow (R100, R101). -/
def Obligations.DecodeAfterEncodeIsIdentity : Prop :=
  ∀ (i : Instr) (rest : List Byte), i.wf = true → decode (encode i ++ rest) = .ok (i, rest)

/-- R112: the map written out, the ranges that name no register, and that index and register name determine
each other. -/
def Obligations.RegisterIndicesAgree : Prop :=
  (∀ e ∈ registerMap, decodeIndex e.1 = some e.2 ∧ indexOf e.2 = e.1)
    ∧ (∀ idx : Byte, unmapped idx ↔ decodeIndex idx = none)
    ∧ ∀ (idx : Byte) (r : HostReg), decodeIndex idx = some r ↔ indexOf r = idx

/-! ### Acceptance of commands -/

/-- A host write to CMD whose low byte decodes to a command runs exactly that command's meaning; the step
adds the event of the access and takes the access off the agenda (R73, R77, R94). -/
def Obligations.StepRunsTheDecodedCommand : Prop :=
  ∀ (s : State) (data : BitVec 64) (later : List Stimulus) (i : Instr),
    s.agenda = .hostWrite 0x00 data :: later → decode [data.extractLsb' 0 8] = .ok (i, []) → i.wf = true →
    (∀ t, exec i { s with agenda := later } = .next t →
        step s = .next { t with trace := t.trace ++ [.hostWrite 0x00 data .ok] })
      ∧ (∀ r, exec i { s with agenda := later } = .fault r → step s = .fault r)
      ∧ (∀ r, exec i { s with agenda := later } = .refused r → step s = .refused r)

/-- R242 with R51 and R244: while idle, a command is refused with the first failing precondition of R243,
changing OVR, LAST_CMD and ERR only, or accepted: its start effects happen and its µop list runs. -/
def Obligations.IdleCommandIsRefusedOrAccepted : Prop :=
  ∀ (i : Instr) (s : State), s.seq = .idle →
    match refusal i s with
    | some e => exec i s = .next { s with ovr := false, lastCmd := codeOf i, err := e }
    | none => ∃ list : List Slot,
        list.map (·.op) = opsOf i s.params s.mode
          ∧ exec i s = .next
              { startClears i s with ovr := false, lastCmd := codeOf i, err := .none, seq := .run i list }

/-- R102: an illegal code written while idle changes STATUS.ERR, STATUS.OVR and STATUS.LAST_CMD only. -/
def Obligations.IllegalCodeChangesOnlyStatus : Prop :=
  ∀ (s : State) (data : BitVec 64) (later : List Stimulus),
    s.seq = .idle → s.agenda = .hostWrite 0x00 data :: later →
    ((data.extractLsb' 0 8).toNat = 0 ∨ 12 ≤ (data.extractLsb' 0 8).toNat) →
    step s = .next
      { s with agenda := later, ovr := false, lastCmd := data.extractLsb' 0 8, err := .illegal,
               trace := s.trace ++ [.hostWrite 0x00 data .ok] }

/-- R74: a write to a writable register while BUSY = 1 sets OVR and changes nothing else. -/
def Obligations.WriteWhileBusyOnlySetsOvr : Prop :=
  ∀ (s : State) (idx : Byte) (data : BitVec 64) (later : List Stimulus),
    s.seq ≠ .idle → s.agenda = .hostWrite idx data :: later → (idx = 0x00 ∨ idx = 0x40 ∨ idx = 0x41) →
    step s = .next
      { s with agenda := later, ovr := true, trace := s.trace ++ [.hostWrite idx data .ok] }

/-- R73, R45: an operand register written while idle holds all 64 bits of the data, unchanged. -/
def Obligations.IdleOperandWriteStoresThePattern : Prop :=
  ∀ (s : State) (data : BitVec 64) (later : List Stimulus),
    s.seq = .idle →
    (s.agenda = .hostWrite 0x40 data :: later →
        step s = .next
          { s with agenda := later, sealevelIn := data, trace := s.trace ++ [.hostWrite 0x40 data .ok] })
      ∧ (s.agenda = .hostWrite 0x41 data :: later →
        step s = .next
          { s with agenda := later, altitudeIn := data, trace := s.trace ++ [.hostWrite 0x41 data .ok] })

/-- R75: a read of an unmapped index or of CMD answers DECERR and 0; a write to an unmapped index or to a
read-only register answers DECERR. Neither changes a register, OVR included. -/
def Obligations.DecodeErrorsChangeNothing : Prop :=
  ∀ (s : State) (idx : Byte) (data : BitVec 64) (later : List Stimulus),
    (s.agenda = .hostRead idx :: later → (idx = 0x00 ∨ unmapped idx) →
        step s = .next { s with agenda := later, trace := s.trace ++ [.hostRead idx .decerr 0] })
      ∧ (s.agenda = .hostWrite idx data :: later → (idx ≠ 0x00 ∧ idx ≠ 0x40 ∧ idx ≠ 0x41) →
        step s = .next { s with agenda := later, trace := s.trace ++ [.hostWrite idx data .decerr] })

/-- R72, R112: a read returns the register's pattern with zeros above and changes nothing. -/
def Obligations.HostReadReturnsTheWholePattern : Prop :=
  ∀ (s : State) (idx : Byte) (r : HostReg) (later : List Stimulus),
    s.agenda = .hostRead idx :: later → (idx, r) ∈ registerMap → r ≠ .cmd →
    ∃ data : BitVec 64,
      step s = .next { s with agenda := later, trace := s.trace ++ [.hostRead idx .ok data] }
        ∧ data.toNat =
          match r with
          | .cmd => 0
          | .status => (statusWord s).toNat
          | .cfg => (cfgWord s).toNat
          | .cal k => (calGet s.cal k).toNat
          | .ut => s.ut.toNat
          | .up => s.up.toNat
          | .b5 => s.b5.toNat
          | .t10 => s.t10.toNat
          | .tempC => s.tempC.toNat
          | .pres => s.pres.toNat
          | .altOut => s.altOut.toNat
          | .slpOut => s.slpOut.toNat
          | .sealevelIn => s.sealevelIn.toNat
          | .altitudeIn => s.altitudeIn.toNat

/-- R46, R47, R113, R240: every field of STATUS and of CFG, the reserved ones included, with the nine codes of
ERR written out. -/
def Obligations.StatusAndCfgFields : Prop :=
  ∀ s : State,
    (statusWord s).getLsbD 0 = (s.seq != .idle) ∧ (statusWord s).getLsbD 1 = s.ovr
      ∧ (statusWord s).extractLsb' 2 2 = 0 ∧ (statusWord s).extractLsb' 4 4 =
        (match s.err with
        | .none => 0
        | .transport => 1
        | .div0T => 2
        | .div0P => 3
        | .range => 4
        | .nocal => 5
        | .reload => 6
        | .nodata => 7
        | .illegal => 8)
      ∧ (statusWord s).getLsbD 8 = s.calValid ∧ (statusWord s).getLsbD 9 = s.utValid
      ∧ (statusWord s).getLsbD 10 = s.upValid ∧ (statusWord s).getLsbD 11 = s.b5Valid
      ∧ (statusWord s).getLsbD 12 = s.tValid ∧ (statusWord s).getLsbD 13 = s.pValid
      ∧ (statusWord s).getLsbD 14 = s.altValid ∧ (statusWord s).getLsbD 15 = s.slpValid
      ∧ (statusWord s).extractLsb' 16 8 = s.lastCmd ∧ (statusWord s).extractLsb' 24 8 = 0
      ∧ (cfgWord s).extractLsb' 0 2 = s.mode ∧ (cfgWord s).extractLsb' 2 6 = 0
      ∧ (cfgWord s).extractLsb' 8 8 = s.devAddr

/-! ### Calibration and sampling -/

/-- LOAD_CAL with eleven good answers (R142): accepted, and after its twelve µops the calibration file holds
the eleven big-endian patterns, CAL_VALID is 1, and only what R51 names has changed. That RXBUF is among what
has not changed is the MODEL's choice (log 15): R79 says that every TxRead writes it, R48 that this one writes
STG[k]. -/
def Obligations.LoadCalLoadsAllEleven : Prop :=
  ∀ (s : State) (b : CalBytes) (later : List Answer),
    Quiet s → s.calValid = false → s.answers = pairAnswers (pairs b) ++ later →
    ∃ t, exec .loadCal s = .next t ∧ busy t = true ∧
      Runs 12 t
        { s with
          cal := patterns b, calValid := true, stg := patterns b, ovr := false, err := .none, lastCmd := 0x01,
          timer := 0, inFlight := false, answers := later,
          trace := s.trace ++ calEvents s.devAddr s.params.calAddr (pairs b) ++ [.exec .loadCal .loadCal] }

/-- R144: if a read of LOAD_CAL fails or has the wrong length, after any number of good reads, the command
ends there with TRANSPORT: no later read is issued, and no register but the hidden staging registers has
changed but those every accepted command writes. That the good reads leave RXBUF unchanged is the MODEL's choice
(log 15), as R79 and R48 differ there. -/
def Obligations.LoadCalIsAllOrNothing : Prop :=
  ∀ (s : State) (good : List (Byte × Byte)) (bad : Answer) (later : List Answer),
    Quiet s → s.calValid = false → good.length < 11 →
    (bad = .fail ∨ ∃ bs, bad = .ok bs ∧ bs.length ≠ 2) →
    s.answers = pairAnswers good ++ bad :: later →
    ∃ t stg, exec .loadCal s = .next t ∧
      Runs (good.length + 1) t
        { s with
          stg := stg, ovr := false, err := .transport, lastCmd := 0x01, timer := 0, inFlight := false,
          answers := later,
          trace := s.trace ++ calEvents s.devAddr s.params.calAddr good
            ++ [.txRead s.devAddr ((addresses s.params.calAddr).getD good.length 0) 2 (readOutcome bad)] }

/-- SAMPLE_T with good answers (R150): UT is the big-endian pair, UT_VALID is 1, and the record holds the
command byte, the settle wait of every mode (R151) and the read. -/
def Obligations.SampleTTakesOneSample : Prop :=
  ∀ (s : State) (w : List Byte) (b0 b1 : Byte) (later : List Answer),
    Quiet s → s.calValid = true → s.answers = .ok w :: .ok [b0, b1] :: later →
    ∃ t, exec .sampleT s = .next t ∧ busy t = true ∧ t.utValid = false ∧
      Runs 4 t
        { s with
          ut := b0 ++ b1, utValid := true, rxbuf := [b0, b1], ovr := false, err := .none, lastCmd := 0x02,
          timer := 0, inFlight := false, answers := later, trace := s.trace ++ sampleTEvents s .sampleT b0 b1 }

/-- SAMPLE_P with good answers (R155, R157): UP is the 24-bit value shifted right by 8 - MODE, UP_VALID is 1,
and the record holds the mode's command byte and settle wait. -/
def Obligations.SamplePTakesOneSample : Prop :=
  ∀ (s : State) (w : List Byte) (p0 p1 p2 : Byte) (later : List Answer),
    Quiet s → s.calValid = true → s.answers = .ok w :: .ok [p0, p1, p2] :: later →
    ∃ t, exec .sampleP s = .next t ∧ busy t = true ∧ t.upValid = false ∧
      Runs 4 t
        { s with
          up := upOf s.mode (p0 ++ p1 ++ p2), upValid := true, rxbuf := [p0, p1, p2], ovr := false, err := .none,
          lastCmd := 0x03, timer := 0, inFlight := false, answers := later,
          trace := s.trace ++ samplePEvents s .sampleP p0 p1 p2 }

/-- R152: a SAMPLE_T whose write fails, or whose read fails or has the wrong length, ends with TRANSPORT,
UT_VALID = 0 and UT unchanged; after a failed write there is no wait and no read. -/
def Obligations.FailedSampleTLeavesNoSample : Prop :=
  ∀ (s : State) (w : List Byte) (bad : Answer) (later : List Answer),
    Quiet s → s.calValid = true →
    (s.answers = .fail :: later →
        ∃ t, exec .sampleT s = .next t ∧ Runs 1 t
          { s with
            utValid := false, ovr := false, err := .transport, lastCmd := 0x02, timer := 0, inFlight := false,
            answers := later,
            trace := s.trace ++ [.txWrite s.devAddr s.params.ctrlReg s.params.cmdTemp false] })
      ∧ ((bad = .fail ∨ ∃ bs, bad = .ok bs ∧ bs.length ≠ 2) → s.answers = .ok w :: bad :: later →
        ∃ t, exec .sampleT s = .next t ∧ Runs 3 t
          { s with
            utValid := false, ovr := false, err := .transport, lastCmd := 0x02, timer := 0, inFlight := false,
            answers := later,
            trace := s.trace ++ [.txWrite s.devAddr s.params.ctrlReg s.params.cmdTemp true, .wait s.params.tSettleT,
              .txRead s.devAddr s.params.dataReg 2 (readOutcome bad)] })

/-- R158: the same for SAMPLE_P: TRANSPORT, UP_VALID = 0 and UP unchanged. -/
def Obligations.FailedSamplePLeavesNoSample : Prop :=
  ∀ (s : State) (w : List Byte) (bad : Answer) (later : List Answer),
    Quiet s → s.calValid = true →
    (s.answers = .fail :: later →
        ∃ t, exec .sampleP s = .next t ∧ Runs 1 t
          { s with
            upValid := false, ovr := false, err := .transport, lastCmd := 0x03, timer := 0, inFlight := false,
            answers := later,
            trace := s.trace ++ [.txWrite s.devAddr s.params.ctrlReg (presCommand s.params s.mode) false] })
      ∧ ((bad = .fail ∨ ∃ bs, bad = .ok bs ∧ bs.length ≠ 3) → s.answers = .ok w :: bad :: later →
        ∃ t, exec .sampleP s = .next t ∧ Runs 3 t
          { s with
            upValid := false, ovr := false, err := .transport, lastCmd := 0x03, timer := 0, inFlight := false,
            answers := later,
            trace := s.trace ++ [.txWrite s.devAddr s.params.ctrlReg (presCommand s.params s.mode) true, .wait (settleP s.params s.mode),
              .txRead s.devAddr s.params.dataReg 3 (readOutcome bad)] })

/-! ### The temperature pipeline -/

/-- R172, R173: for 16-bit inputs only T1b can leave its lane, a divisor of zero is DIV0_T whatever the
dividend, and otherwise B5 and T10 have the closed form of steps 1 to 4. -/
def Obligations.CompTClosedForm : Prop :=
  ∀ ut ac5 ac6 mc md : Half,
    let t := (ut.toInt - (ac6.toNat : Int)) * (ac5.toNat : Int)
    let x1 := t / 32768
    let d := x1 + md.toInt
    let b5 := x1 + Int.tdiv (mc.toInt * 2048) d
    let result := compT ut.toInt ac5.toNat ac6.toNat mc.toInt md.toInt
    if t < -2147483648 ∨ 2147483647 < t then result = .error ⟨.range, .t1b⟩
    else if d = 0 then result = .error ⟨.div0T, .t2⟩
    else result = .ok (b5, (b5 + 8) / 16)

/-- COMP_T with a valid sample (R183): the sample is consumed; if CompT returns, B5, T10 and TEMP_C are
written with their flags; if it raises, its code is in ERR and nothing else is written. -/
def Obligations.CompTConsumesTheSample : Prop :=
  ∀ s : State, Quiet s → s.calValid = true → s.utValid = true →
    ∃ t, exec .compT s = .next t ∧ busy t = true ∧
      match temperature s.cal s.ut with
      | .ok (b5, t10) =>
        Runs 1 t
          { s with
            utValid := false, b5 := BitVec.ofInt 32 b5, b5Valid := true, t10 := BitVec.ofInt 32 t10,
            tempC := tempCOf t10, tValid := true, ovr := false, err := .none, lastCmd := 0x04, timer := 0,
            trace := s.trace ++ [.exec .compT .compT] }
      | .error e =>
        Runs 1 t
          { s with
            utValid := false, b5Valid := false, tValid := false, ovr := false, err := e.code, lastCmd := 0x04,
            timer := 0, trace := s.trace ++ [.exec .compT .compT] }

/-- R174: TEMP_C is the binary64 value nearest T10 / 10, ties to even, for every T10 of the 32-bit register;
150 gives 15.0 and -389 the value nearest -38.9. -/
def Obligations.TempCIsTheNearestTenth : Prop :=
  (∀ t10 : Int, -2147483648 ≤ t10 → t10 ≤ 2147483647 → Nearest (t10 * 2 ^ 1074) 10 (tempCOf t10))
    ∧ tempCOf 150 = 0x402E000000000000 ∧ tempCOf (-389) = 0xC043733333333333

/-! ### The pressure pipeline -/

/-- R175: where CompP returns, its result is the straight-line formula of steps 1 to 14. -/
def Obligations.CompPFollowsTheFourteenSteps : Prop :=
  ∀ (b5 up : Int) (mode : Nat) (ac1 ac2 ac3 ac4 b1 b2 pres : Int), mode ≤ 3 →
    compP b5 up mode ac1 ac2 ac3 ac4 b1 b2 = .ok pres →
    let b6 := b5 - 4000
    let q := b6 * b6 / 4096
    let b3 := Int.tdiv ((ac1 * 4 + (b2 * q / 2048 + ac2 * b6 / 2048)) * 2 ^ mode + 2) 4
    let x3 := (ac3 * b6 / 8192 + b1 * q / 65536 + 2) / 4
    let b4 := ac4 * (x3 + 32768) / 32768
    let b7 := (up - b3) * (50000 / 2 ^ mode)
    let p := if b7 < 0x80000000 then b7 * 2 / b4 else b7 / b4 * 2
    0 ≤ b7 ∧ b7 ≤ 4294967295 ∧ 0 < b4 ∧
      pres = p + ((p / 256) * (p / 256) * 3038 / 65536 + -7357 * p / 65536 + 3791) / 16

/-- R175, R176, R178, R179, R180: for all integer operands, CompP raises what the first failing check of its
list says, at that step, and returns the value of step P14c when every check passes. -/
def Obligations.CompPReportsTheFirstFailingCheck : Prop :=
  ∀ (b5 up : Int) (mode : Nat) (ac1 ac2 ac3 ac4 b1 b2 : Int),
    compP b5 up mode ac1 ac2 ac3 ac4 b1 b2 =
      match (compPChecks b5 up mode ac1 ac2 ac3 ac4 b1 b2).1.find? (fun c => !c.passes) with
      | some c => .error ⟨c.code, c.step⟩
      | none => .ok (compPChecks b5 up mode ac1 ac2 ac3 ac4 b1 b2).2

/-- R178, R179, R180: with steps P1 to P8b inside their lanes, step 9 faults RANGE at P9a or P9b, then step 10
at P10a or P10b, before step 11 faults DIV0_P exactly when AC4 * (X3 + 32768) < 32768. -/
def Obligations.CompPFaultsInStepOrder : Prop :=
  ∀ (b5 up : Int) (mode : Nat) (ac1 ac2 ac3 ac4 b1 b2 b6 q b3 : Int),
    compPStage1 b5 ac1 ac2 b2 mode = .ok (b6, q, b3) →
    -2147483648 ≤ ac3 * b6 → ac3 * b6 ≤ 2147483647 → -2147483648 ≤ b1 * q → b1 * q ≤ 2147483647 →
    let x3 := (ac3 * b6 / 8192 + b1 * q / 65536 + 2) / 4
    let u := x3 + 32768
    let v := up - b3
    let b7 := v * (50000 / 2 ^ mode)
    let result := compP b5 up mode ac1 ac2 ac3 ac4 b1 b2
    if u < 0 then result = .error ⟨.range, .p9a⟩
    else if ac4 * u < 0 ∨ 4294967295 < ac4 * u then result = .error ⟨.range, .p9b⟩
    else if v < 0 ∨ 4294967295 < v then result = .error ⟨.range, .p10a⟩
    else if 4294967295 < b7 then result = .error ⟨.range, .p10b⟩
    else (ac4 * u < 32768 ↔ result = .error ⟨.div0P, .p11⟩)

/-- R177: at the boundary 0x7FFFFFFF / 0x80000000 both branches of step 11 return for every B4 >= 3. -/
def Obligations.Step11BoundaryReturns : Prop :=
  (∀ b4 : Int, 3 ≤ b4 → b4 ≤ 4294967295 →
      step11 0x7FFFFFFF b4 = .ok (0xFFFFFFFE / b4) ∧ step11 0x80000000 b4 = .ok (2 * (0x80000000 / b4)))
    ∧ step11 0x7FFFFFFF 33457 = .ok 128372 ∧ step11 0x80000000 33457 = .ok 128372

/-- R176: what Step11 returns lies in [0, 2^31 - 1]; B4 = 0 is DIV0_P, B4 = 1 faults in either branch, and
B4 = 2 separates the two sides of the boundary. -/
def Obligations.Step11RangeAndCorners : Prop :=
  (∀ b7 b4 p : Int, 0 ≤ b7 → b7 ≤ 4294967295 → 0 ≤ b4 → b4 ≤ 4294967295 → step11 b7 b4 = .ok p →
      0 ≤ p ∧ p ≤ 2147483647)
    ∧ (∀ b7 : Int, 0 ≤ b7 → b7 ≤ 4294967295 →
      step11 b7 0 = .error ⟨.div0P, .p11⟩
        ∧ (1073741824 ≤ b7 → b7 < 0x80000000 → step11 b7 1 = .error ⟨.range, .p11b⟩)
        ∧ (0x80000000 ≤ b7 → step11 b7 1 = .error ⟨.range, .p11c⟩))
    ∧ step11 0x7FFFFFFF 2 = .ok 0x7FFFFFFF ∧ step11 0x80000000 2 = .error ⟨.range, .p11d⟩

/-- R186: on the worked example's calibration in MODE 0 with B5 = 2400, CompP returns exactly for UP in
[422, 72453], is non-decreasing there, and faults RANGE at P10a below. -/
def Obligations.ExamplePressureIsMonotone : Prop :=
  (∀ up : Nat, up < 2 ^ 32 → ((∃ v, examplePressure up = .ok v) ↔ 422 ≤ up ∧ up ≤ 72453))
    ∧ (∀ (up1 up2 : Nat) (v1 v2 : Int), up1 ≤ up2 → examplePressure up1 = .ok v1 → examplePressure up2 = .ok v2 →
        v1 ≤ v2)
    ∧ ∀ up : Nat, up ≤ 421 → examplePressure up = .error ⟨.range, .p10a⟩

/-- COMP_P with a valid sample and a valid B5 (R184): both are consumed; if CompP returns, PRES and P_VALID
are written; if it raises, its code is in ERR and nothing else is written. -/
def Obligations.CompPConsumesSampleAndB5 : Prop :=
  ∀ s : State, Quiet s → s.calValid = true → s.upValid = true → s.b5Valid = true →
    ∃ t, exec .compP s = .next t ∧ busy t = true ∧
      match pressure s.cal s.mode s.b5.toInt s.up with
      | .ok pres =>
        Runs 1 t
          { s with
            upValid := false, b5Valid := false, pres := BitVec.ofInt 32 pres, pValid := true, ovr := false,
            err := .none, lastCmd := 0x05, timer := 0, trace := s.trace ++ [.exec .compP .compP] }
      | .error e =>
        Runs 1 t
          { s with
            upValid := false, b5Valid := false, pValid := false, ovr := false, err := e.code, lastCmd := 0x05,
            timer := 0, trace := s.trace ++ [.exec .compP .compP] }

/-! ### Binary64 and the Altitude Converter -/

/-- R13: the sum, difference, product and quotient of two finite values are the exact result rounded to
nearest, ties to even, wherever its magnitude does not round to an infinity. The difference and the sum are
exact multiples of 2^-1074; a product is in units of 2^-2148; a quotient's divisor is not zero. -/
def Obligations.ArithmeticRoundsToNearestEven : Prop :=
  ∀ nan a b : F64, f64IsFinite a = true → f64IsFinite b = true →
    ((f64Units a + f64Units b).natAbs < overflowUnits → Nearest (f64Units a + f64Units b) 1 (f64Add nan a b))
      ∧ ((f64Units a - f64Units b).natAbs < overflowUnits → Nearest (f64Units a - f64Units b) 1 (f64Sub nan a b))
      ∧ ((f64Units a * f64Units b).natAbs < 2 ^ 1074 * overflowUnits →
          Nearest (f64Units a * f64Units b) (2 ^ 1074) (f64Mul nan a b))
      ∧ (f64Units b ≠ 0 → (f64Units a).natAbs * 2 ^ 1074 < (f64Units b).natAbs * overflowUnits →
          Nearest ((f64Units b).sign * f64Units a * 2 ^ 1074) (f64Units b).natAbs (f64Div nan a b))

/-- R13: `f64(i)` is exact for |i| < 2^53. -/
def Obligations.IntegersConvertExactly : Prop :=
  ∀ i : Int, i.natAbs < 2 ^ 53 → f64IsFinite (f64OfInt i) = true ∧ f64Units (f64OfInt i) = i * 2 ^ 1074

/-- R201: POW-1 to POW-7, and that POW-3, POW-4 and POW-5 apply to both exponents of R202. -/
def Obligations.PowHasItsRequiredProperties : Prop :=
  (∀ y, pow f64One y = f64One)
    ∧ (∀ x y, f64IsZero y = true → pow x y = f64One)
    ∧ (∀ x y, f64IsFinite x = true → f64IsNegative x = true → f64IsFinite y = true → f64IsInteger y = false →
        f64IsNaN (pow x y) = true)
    ∧ (∀ x y, f64IsZero x = true → f64IsFinite y = true → f64IsPositive y = true → f64IsOddInteger y = false →
        pow x y = 0)
    ∧ (∀ x y, f64IsInf x = true → f64IsPositive y = true → f64IsOddInteger y = false → pow x y = 0x7FF0000000000000)
    ∧ (∀ x y, (f64IsNaN x = true ∨ f64IsNaN y = true) → x ≠ f64One → f64IsZero y = false →
        f64IsNaN (pow x y) = true)
    ∧ (∀ x y, f64IsFinite x = true → f64IsPositive x = true → f64IsFinite y = true → f64IsNaN (pow x y) = false)
    ∧ expAlt = 0x3FC85B95CCD9456C
    ∧ ∀ y, (y = expAlt ∨ y = Config.expSl) →
        f64IsFinite y = true ∧ f64IsPositive y = true ∧ f64IsInteger y = false

/-- R207, for Altitude and every pressure p > 0 of the 32-bit register. Every finite negative sea-level pressure
gives NaN; where p / s overflows to -inf, that is R207 and I2 against R203 with POW-5 (the MODEL's reading of
the conflict, log 10). -/
def Obligations.AltitudeSpecialValues : Prop :=
  ∀ (n : Nat) (p : Int), 0 < p → p ≤ 2147483647 →
    altitude n p (f64OfInt p) = 0
      ∧ altitude n p 0x7FF0000000000000 = Config.kAlt
      ∧ altitude n p 0x0000000000000000 = 0xFFF0000000000000
      ∧ altitude n p 0x8000000000000000 = 0xFFF0000000000000
      ∧ (∀ s, f64IsNaN s = true → f64IsNaN (altitude n p s) = true)
      ∧ (∀ s, f64IsFinite s = true → f64IsNegative s = true → f64IsNaN (altitude n p s) = true)

/-- R207, for SeaLevel and every pressure p > 0 of the 32-bit register. -/
def Obligations.SeaLevelSpecialValues : Prop :=
  ∀ (n : Nat) (p : Int), 0 < p → p ≤ 2147483647 →
    seaLevel n 0x0000000000000000 p = f64OfInt p
      ∧ seaLevel n 0x8000000000000000 p = f64OfInt p
      ∧ seaLevel n Config.kSl p = 0x7FF0000000000000
      ∧ (∀ a, f64IsFinite a = true → f64Units Config.kSl < f64Units a → f64IsNaN (seaLevel n a p) = true)
      ∧ seaLevel n 0xFFF0000000000000 p = 0
      ∧ seaLevel n 0x7FF0000000000000 p = 0
      ∧ ∀ a, f64IsNaN a = true → f64IsNaN (seaLevel n a p) = true

/-- ALT with a valid pressure (R205): ALT_OUT is Altitude of the held PRES and SEALEVEL_IN; PRES stays valid. -/
def Obligations.AltWritesTheAltitude : Prop :=
  ∀ s : State, Quiet s → s.calValid = true → s.pValid = true →
    ∃ t, exec .alt s = .next t ∧ busy t = true ∧ t.altValid = false ∧
      Runs 1 t
        { s with
          altOut := altitude s.nanCount s.pres.toInt s.sealevelIn, altValid := true, nanCount := s.nanCount + 3,
          ovr := false, err := .none, lastCmd := 0x06, timer := 0, trace := s.trace ++ [.exec .alt .alt] }

/-- SLP with a valid pressure (R206): SLP_OUT is SeaLevel of ALTITUDE_IN and the held PRES; PRES stays valid. -/
def Obligations.SlpWritesTheSeaLevelPressure : Prop :=
  ∀ s : State, Quiet s → s.calValid = true → s.pValid = true →
    ∃ t, exec .slp s = .next t ∧ busy t = true ∧ t.slpValid = false ∧
      Runs 1 t
        { s with
          slpOut := seaLevel s.nanCount s.altitudeIn s.pres.toInt, slpValid := true, nanCount := s.nanCount + 3,
          ovr := false, err := .none, lastCmd := 0x07, timer := 0, trace := s.trace ++ [.exec .slp .slp] }

/-! ### Public commands -/

/-- READ_TEMPERATURE (R221): a fresh sample and its compensation; the sample is consumed and B5 is valid. -/
def Obligations.ReadTemperatureReads : Prop :=
  ∀ (s : State) (w : List Byte) (b0 b1 : Byte) (later : List Answer) (b5 t10 : Int),
    Quiet s → s.calValid = true → s.answers = .ok w :: .ok [b0, b1] :: later →
    temperature s.cal (b0 ++ b1) = .ok (b5, t10) →
    ∃ t, exec .readTemperature s = .next t ∧ busy t = true ∧ t.tValid = false ∧
      Runs 5 t
        { s with
          ut := b0 ++ b1, utValid := false, rxbuf := [b0, b1], b5 := BitVec.ofInt 32 b5, b5Valid := true,
          t10 := BitVec.ofInt 32 t10, tempC := tempCOf t10, tValid := true, ovr := false, err := .none,
          lastCmd := 0x08, timer := 0, inFlight := false, answers := later,
          trace := s.trace ++ sampleTEvents s .readTemperature b0 b1 ++ [.exec .readTemperature .compT] }

/-- READ_PRESSURE (R222): the four phases in order, ten µops. -/
def Obligations.ReadPressureReads : Prop :=
  ∀ (s : State) (w w' : List Byte) (b0 b1 p0 p1 p2 : Byte) (later : List Answer) (b5 t10 pres : Int),
    Quiet s → s.calValid = true →
    s.answers = .ok w :: .ok [b0, b1] :: .ok w' :: .ok [p0, p1, p2] :: later →
    temperature s.cal (b0 ++ b1) = .ok (b5, t10) → pressure s.cal s.mode b5 (upOf s.mode (p0 ++ p1 ++ p2)) = .ok pres →
    ∃ t, exec .readPressure s = .next t ∧ busy t = true ∧ t.tValid = false ∧ t.pValid = false ∧
      Runs 10 t (afterPressure s .readPressure b0 b1 p0 p1 p2 b5 t10 pres later)

/-- READ_ALTITUDE (R223): the phases of READ_PRESSURE, then the altitude of the new pressure. -/
def Obligations.ReadAltitudeReads : Prop :=
  ∀ (s : State) (w w' : List Byte) (b0 b1 p0 p1 p2 : Byte) (later : List Answer) (b5 t10 pres : Int),
    Quiet s → s.calValid = true →
    s.answers = .ok w :: .ok [b0, b1] :: .ok w' :: .ok [p0, p1, p2] :: later →
    temperature s.cal (b0 ++ b1) = .ok (b5, t10) → pressure s.cal s.mode b5 (upOf s.mode (p0 ++ p1 ++ p2)) = .ok pres →
    ∃ t, exec .readAltitude s = .next t ∧ busy t = true ∧ t.tValid = false ∧ t.pValid = false ∧ t.altValid = false ∧
      Runs 11 t
        (let u := afterPressure s .readAltitude b0 b1 p0 p1 p2 b5 t10 pres later
         { u with
           altOut := altitude s.nanCount pres s.sealevelIn, altValid := true, nanCount := s.nanCount + 3,
           trace := u.trace ++ [.exec .readAltitude .alt] })

/-- READ_SEALEVEL (R224): the phases of READ_PRESSURE, then the sea-level pressure of the new pressure. -/
def Obligations.ReadSealevelReads : Prop :=
  ∀ (s : State) (w w' : List Byte) (b0 b1 p0 p1 p2 : Byte) (later : List Answer) (b5 t10 pres : Int),
    Quiet s → s.calValid = true →
    s.answers = .ok w :: .ok [b0, b1] :: .ok w' :: .ok [p0, p1, p2] :: later →
    temperature s.cal (b0 ++ b1) = .ok (b5, t10) → pressure s.cal s.mode b5 (upOf s.mode (p0 ++ p1 ++ p2)) = .ok pres →
    ∃ t, exec .readSealevel s = .next t ∧ busy t = true ∧ t.tValid = false ∧ t.pValid = false ∧ t.slpValid = false ∧
      Runs 11 t
        (let u := afterPressure s .readSealevel b0 b1 p0 p1 p2 b5 t10 pres later
         { u with
           slpOut := seaLevel s.nanCount s.altitudeIn pres, slpValid := true, nanCount := s.nanCount + 3,
           trace := u.trace ++ [.exec .readSealevel .slp] })

/-- R220, R246: in each of the four public commands, a temperature sample whose write fails, or whose read fails
or has the wrong length, ends the command with TRANSPORT: the flags the acceptance and the phase cleared stay 0,
no other register has changed, and no later µop runs. -/
def Obligations.FailedTemperatureSampleEndsAPublicCommand : Prop :=
  ∀ (i : Instr) (s : State) (w : List Byte) (bad : Answer) (later : List Answer),
    isPublic i → Quiet s → s.calValid = true →
    (s.answers = .fail :: later →
        ∃ t, exec i s = .next t ∧ Runs 1 t
          { startClears i s with
            utValid := false, ovr := false, err := .transport, lastCmd := codeOf i, timer := 0, inFlight := false,
            answers := later,
            trace := s.trace ++ [.txWrite s.devAddr s.params.ctrlReg s.params.cmdTemp false] })
      ∧ (badAnswer 2 bad → s.answers = .ok w :: bad :: later →
        ∃ t, exec i s = .next t ∧ Runs 3 t
          { startClears i s with
            utValid := false, ovr := false, err := .transport, lastCmd := codeOf i, timer := 0, inFlight := false,
            answers := later,
            trace := s.trace ++ [.txWrite s.devAddr s.params.ctrlReg s.params.cmdTemp true, .wait s.params.tSettleT,
              .txRead s.devAddr s.params.dataReg 2 (readOutcome bad)] })

/-- R220, R246, R182: in each of the four public commands, a CompT that raises ends the command with its code:
the sample is consumed, B5_VALID and T_VALID are 0, and B5, T10 and TEMP_C are unchanged. -/
def Obligations.RaisingCompTEndsAPublicCommand : Prop :=
  ∀ (i : Instr) (s : State) (w : List Byte) (b0 b1 : Byte) (later : List Answer) (e : ArithError),
    isPublic i → Quiet s → s.calValid = true → s.answers = .ok w :: .ok [b0, b1] :: later →
    temperature s.cal (b0 ++ b1) = .error e →
    ∃ t, exec i s = .next t ∧
      Runs 5 t
        { startClears i s with
          ut := b0 ++ b1, utValid := false, rxbuf := [b0, b1], b5Valid := false, tValid := false, ovr := false,
          err := e.code, lastCmd := codeOf i, timer := 0, inFlight := false, answers := later,
          trace := s.trace ++ sampleTEvents s i b0 b1 ++ [.exec i .compT] }

/-- R220 item 4, R222: where CompP raises inside READ_PRESSURE, READ_ALTITUDE or READ_SEALEVEL, the temperature
stays complete and valid, the samples are consumed, and no pressure, altitude or sea-level pressure of this
command is marked valid. -/
def Obligations.FailedPressureKeepsTheTemperature : Prop :=
  ∀ (i : Instr) (s : State) (w w' : List Byte) (b0 b1 p0 p1 p2 : Byte) (later : List Answer) (b5 t10 : Int)
    (e : ArithError), readsPressure i →
    Quiet s → s.calValid = true →
    s.answers = .ok w :: .ok [b0, b1] :: .ok w' :: .ok [p0, p1, p2] :: later →
    temperature s.cal (b0 ++ b1) = .ok (b5, t10) → pressure s.cal s.mode b5 (upOf s.mode (p0 ++ p1 ++ p2)) = .error e →
    ∃ t, exec i s = .next t ∧
      Runs 10 t
        { afterPressure (startClears i s) i b0 b1 p0 p1 p2 b5 t10 0 later with
          pres := s.pres, pValid := false, err := e.code }

/-- R220 item 4 on the transport: where the pressure sample of READ_PRESSURE, READ_ALTITUDE or READ_SEALEVEL
fails, at its write, or at its read by a failure or a wrong length, the temperature and B5 stay valid, because
COMP_P never started (test vector V-R6). -/
def Obligations.FailedPressureReadKeepsB5 : Prop :=
  ∀ (i : Instr) (s : State) (w w' : List Byte) (b0 b1 : Byte) (bad : Answer) (later : List Answer) (b5 t10 : Int),
    readsPressure i → Quiet s → s.calValid = true → temperature s.cal (b0 ++ b1) = .ok (b5, t10) →
    let done : State :=
      { startClears i s with
        ut := b0 ++ b1, utValid := false, upValid := false, rxbuf := [b0, b1], b5 := BitVec.ofInt 32 b5,
        b5Valid := true, t10 := BitVec.ofInt 32 t10, tempC := tempCOf t10, tValid := true, ovr := false,
        err := .transport, lastCmd := codeOf i, timer := 0, inFlight := false, answers := later,
        trace := s.trace ++ sampleTEvents s i b0 b1 ++ [.exec i .compT] }
    (s.answers = .ok w :: .ok [b0, b1] :: .fail :: later →
        ∃ t, exec i s = .next t ∧
          Runs 6 t
            { done with
              trace := done.trace ++ [.txWrite s.devAddr s.params.ctrlReg (presCommand s.params s.mode) false] })
      ∧ (badAnswer 3 bad → s.answers = .ok w :: .ok [b0, b1] :: .ok w' :: bad :: later →
        ∃ t, exec i s = .next t ∧
          Runs 8 t
            { done with
              trace := done.trace ++ [.txWrite s.devAddr s.params.ctrlReg (presCommand s.params s.mode) true,
                .wait (settleP s.params s.mode), .txRead s.devAddr s.params.dataReg 3 (readOutcome bad)] })

/-! ### The engine and the whole machine -/

/-- The machine never stops: every step of every state answers a next state (errors are recorded in ERR,
R241, R246; there is no trap and no interrupt, R250, R251). That a state whose transaction never completes
answers a next state as well is the MODEL's choice (log 6): R289 says that there the engine has no step. -/
def Obligations.EveryStepAnswersANextState : Prop := ∀ s : State, ∃ t, step s = .next t

/-- R246, R220: an Exec that raises commits nothing: ERR holds the code, the rest of the list is dropped and the
engine is idle. Where the Exec is the first µop of a phase (the CompT, CompP, Altitude and SeaLevel phases of the
public commands), the phase's preconditions hold and its start effects have happened and stay. -/
def Obligations.RaisingExecCommitsNothing : Prop :=
  ∀ (s : State) (cmd : Instr) (begins : Option Prim) (f : Prim) (rest : List Slot) (e : ErrCode),
    s.agenda = [] → s.seq = .run cmd (⟨begins, .exec f⟩ :: rest) → phaseRefusal begins s = none →
    commitPrim f (phaseStart begins { s with timer := 0 }) = .error e →
    step s = .next
      { phaseStart begins s with err := e, seq := .idle, timer := 0, trace := s.trace ++ [.exec cmd f] }

/-- R289: while its transaction has no answer the engine makes no progress, however many steps it is given:
BUSY stays 1 and no register changes. The MODEL's choices in it: R289's engine without a step is a step to the
same state with the transaction in flight, an empty list of answers means that no answer comes (log 6), and
an unanswered transaction records no event (log 14). -/
def Obligations.UnansweredTransactionStaysInFlight : Prop :=
  ∀ (s : State) (cmd : Instr) (op : UOp) (rest : List Slot) (n : Nat),
    s.agenda = [] → s.seq = .run cmd (⟨none, op⟩ :: rest) →
    ((∃ reg val, op = .txWrite reg val) ∨ ∃ reg k dst, op = .txRead reg k dst) →
    (s.answers = [] ∨ ∃ later, s.answers = .never :: later) →
    Runs (n + 1) s { s with timer := 0, inFlight := true }

/-- R280, R52: reset from any state gives every register its reset value and the construction inputs, with
STATUS = 0 and the engine idle: a running command and its Wait are abandoned without an error code. STG and
RXBUF, whose reset value is unspecified, are not named. -/
def Obligations.ResetFromAnyState : Prop :=
  ∀ (s : State) (mode : BitVec 2) (devAddr : Byte) (later : List Stimulus),
    s.agenda = .reset mode devAddr :: later →
    ∃ t, step s = .next t ∧ t.mode = mode ∧ t.devAddr = devAddr ∧ t.cal = ⟨0, 0, 0, 0, 0, 0, 0, 0, 0, 0, 0⟩
      ∧ t.ut = 0 ∧ t.up = 0 ∧ t.b5 = 0 ∧ t.t10 = 0 ∧ t.pres = 0 ∧ t.tempC = 0 ∧ t.altOut = 0 ∧ t.slpOut = 0
      ∧ t.sealevelIn = 0x40F8BCD000000000 ∧ t.altitudeIn = 0 ∧ statusWord t = 0 ∧ t.seq = .idle ∧ t.timer = 0
      ∧ t.inFlight = false

/-- What the MODEL keeps across reset (log 6, log 12): reset issues no transaction and records no event, the
parameters and the schedule stay, and the answer of a transaction in flight is never seen. -/
def Obligations.ResetDropsTheAnswerInFlight : Prop :=
  ∀ (s : State) (mode : BitVec 2) (devAddr : Byte) (later : List Stimulus),
    s.agenda = .reset mode devAddr :: later →
    ∃ t, step s = .next t ∧ t.trace = s.trace ∧ t.agenda = later ∧ t.params = s.params
      ∧ t.answers = if s.inFlight then s.answers.drop 1 else s.answers

/-- The reset state is coherent, for every construction input and every parameter set. -/
def Obligations.ResetIsCoherent : Prop :=
  ∀ (mode : BitVec 2) (devAddr : Byte) (params : Params), Coherent (State.resetWith mode devAddr params)

/-- Every step keeps coherence: the sequencer holds a tail of the running command's list (R47, R48), nothing
is valid before calibration (R34), UP is in range (R39), a valid pressure is at least 236 (R207), a running
command has no error yet (R246), and the data of every later phase will be there (R220). -/
def Obligations.EveryStepKeepsCoherence : Prop :=
  ∀ s t : State, Coherent s → step s = .next t → Coherent t

/-- R35, R31, R32: in a coherent state with CAL_VALID = 1, no step but reset changes the calibration
registers, MODE or DEV_ADDR, or clears CAL_VALID. -/
def Obligations.CalibrationIsImmutableUntilReset : Prop :=
  ∀ s t : State, Coherent s → s.calValid = true →
    (∀ mode devAddr later, s.agenda ≠ .reset mode devAddr :: later) → step s = .next t →
    t.cal = s.cal ∧ t.calValid = true ∧ t.mode = s.mode ∧ t.devAddr = s.devAddr

/-- R220: an engine step of a coherent state raises only TRANSPORT, DIV0_T, DIV0_P or RANGE; no accepted
command ends with NOCAL, RELOAD, NODATA or ILLEGAL. -/
def Obligations.AcceptedCommandsNeverEndInAUsageError : Prop :=
  ∀ s t : State, Coherent s → busy s = true → s.agenda = [] → step s = .next t →
    t.err = .none ∨ t.err = .transport ∨ t.err = .div0T ∨ t.err = .div0P ∨ t.err = .range

/-- R51: what an engine step and a command may change. Each register has its one writer: the calibration file only
the Exec of LOAD_CAL, UT that of SAMPLE_T, UP that of SAMPLE_P, B5, T10 and TEMP_C that of COMP_T, PRES that of
COMP_P, ALT_OUT that of ALT, SLP_OUT that of SLP; the operand registers, OVR, LAST_CMD, MODE and DEV_ADDR none.
Each valid flag is set by its one Exec alone, and cleared only by the starts that R51 names for it: those of the
phases that begin in an engine step, and those of the commands a host write accepts. -/
def Obligations.EachRegisterHasItsOneWriter : Prop :=
  (∀ s t : State, s.agenda = [] → step s = .next t →
    let runs := fun f : Prim => ((remaining s).head?.map (·.op)) = some (.exec f)
    let begins := fun f : Prim => ((remaining s).head?.bind (·.begins)) = some f
    (t.cal ≠ s.cal ∨ t.calValid ≠ s.calValid → runs .loadCal)
      ∧ (t.ut ≠ s.ut → runs .sampleT) ∧ (t.up ≠ s.up → runs .sampleP)
      ∧ (t.b5 ≠ s.b5 ∨ t.t10 ≠ s.t10 ∨ t.tempC ≠ s.tempC → runs .compT) ∧ (t.pres ≠ s.pres → runs .compP)
      ∧ (t.altOut ≠ s.altOut → runs .alt) ∧ (t.slpOut ≠ s.slpOut → runs .slp)
      ∧ t.sealevelIn = s.sealevelIn ∧ t.altitudeIn = s.altitudeIn ∧ t.ovr = s.ovr ∧ t.lastCmd = s.lastCmd
      ∧ t.mode = s.mode ∧ t.devAddr = s.devAddr ∧ t.params = s.params ∧ t.agenda = []
      ∧ ¬ cleared s.calValid t.calValid
      ∧ (raised s.utValid t.utValid → runs .sampleT)
      ∧ (cleared s.utValid t.utValid → begins .sampleT ∨ begins .compT)
      ∧ (raised s.upValid t.upValid → runs .sampleP)
      ∧ (cleared s.upValid t.upValid → begins .sampleP ∨ begins .compP)
      ∧ (raised s.b5Valid t.b5Valid → runs .compT)
      ∧ (cleared s.b5Valid t.b5Valid → begins .compT ∨ begins .compP)
      ∧ (raised s.tValid t.tValid → runs .compT) ∧ (cleared s.tValid t.tValid → begins .compT)
      ∧ (raised s.pValid t.pValid → runs .compP) ∧ (cleared s.pValid t.pValid → begins .compP)
      ∧ (raised s.altValid t.altValid → runs .alt) ∧ (cleared s.altValid t.altValid → begins .alt)
      ∧ (raised s.slpValid t.slpValid → runs .slp) ∧ (cleared s.slpValid t.slpValid → begins .slp))
    ∧ ∀ (i : Instr) (s t : State), exec i s = .next t →
      t.calValid = s.calValid
        ∧ (t.utValid ≠ s.utValid → cleared s.utValid t.utValid ∧ (i = .sampleT ∨ i = .compT))
        ∧ (t.upValid ≠ s.upValid → cleared s.upValid t.upValid ∧ (i = .sampleP ∨ i = .compP))
        ∧ (t.b5Valid ≠ s.b5Valid → cleared s.b5Valid t.b5Valid ∧ (i = .compT ∨ i = .compP))
        ∧ (t.tValid ≠ s.tValid → cleared s.tValid t.tValid ∧ (i = .compT ∨ isPublic i))
        ∧ (t.pValid ≠ s.pValid → cleared s.pValid t.pValid ∧ (i = .compP ∨ readsPressure i))
        ∧ (t.altValid ≠ s.altValid → cleared s.altValid t.altValid ∧ (i = .alt ∨ i = .readAltitude))
        ∧ (t.slpValid ≠ s.slpValid → cleared s.slpValid t.slpValid ∧ (i = .slp ∨ i = .readSealevel))

/-- R77, R88: host reads and the passing of time, however interleaved with the engine's steps, change nothing
the engine does: the run ends in the same registers, sequencer, answers and transport record as the same number
of engine steps alone. -/
def Obligations.InterleavedReadsDoNotDisturbTheEngine : Prop :=
  ∀ (s : State) (l : List Stimulus), (∀ x ∈ l, isPassive x = true) →
    ∃ u v, Runs l.length { s with agenda := l } u ∧ Runs (engineSteps l) { s with agenda := [] } v
      ∧ engineView u = engineView v

/-- R48, R88, R220, R246: an engine step runs exactly one µop, the head of the list. If a phase begins with it, its
failing precondition ends the command (log 8), or its start effects happen first. Then the µop has its effect,
with the one event of that write, read, wait or Exec; if it raises, the command ends with its error; otherwise the
rest of the list remains, or, where nothing remains, the engine is idle with ERR = NONE in the same step (log 19).
A transaction without an answer stays the head µop, in flight (log 6), and records no event (log 14). -/
def Obligations.EngineStepRunsOneUop : Prop :=
  ∀ (s : State) (cmd : Instr) (slot : Slot) (rest : List Slot),
    s.agenda = [] → s.seq = .run cmd (slot :: rest) →
    let begun := phaseStart slot.begins { s with timer := 0 }
    match phaseRefusal slot.begins s, uopEffect cmd slot.op begun with
    | some e, _ => step s = .next { s with timer := 0, err := e, seq := .idle }
    | none, none => step s = .next { begun with inFlight := true, seq := .run cmd (⟨none, slot.op⟩ :: rest) }
    | none, some (some e, u) => step s = .next { u with err := e, seq := .idle }
    | none, some (none, u) =>
      step s = .next (if rest = [] then { u with err := .none, seq := .idle } else { u with seq := .run cmd rest })

/-- R8, R157: with parameters that keep the constraint of R8, SAMPLE_P waits longest in UltraHighRes. -/
def Obligations.UltraHighResWaitsLongest : Prop :=
  ∀ (p : Params) (mode : BitVec 2) (t t' : Nat), p.wf = true →
    .wait t ∈ uopsSampleP p mode → .wait t' ∈ uopsSampleP p 3 → t ≤ t'

/-- R106: poll reads STATUS once; while BUSY = 1 the engine steps and the host polls again. -/
def Obligations.PollRepeatsWhileBusy : Prop :=
  ∀ (s : State) (later : List Stimulus), s.agenda = .poll :: later →
    step s = .next
      { s with
        agenda := if s.seq = .idle then later else .engine :: .poll :: later
        trace := s.trace ++ [.hostRead 0x01 .ok ((statusWord s).setWidth 64)] }

/-- R220: a successful READ_PRESSURE leaves every register as the primitive commands SAMPLE_T, COMP_T, SAMPLE_P
and COMP_P, issued one after the other, leave it, but for LAST_CMD; the flags agree too. -/
def Obligations.ReadPressureEqualsItsPrimitives : Prop :=
  ∀ (s : State) (w w' : List Byte) (b0 b1 p0 p1 p2 : Byte) (later : List Answer) (b5 t10 pres : Int),
    Quiet s → s.calValid = true →
    s.answers = .ok w :: .ok [b0, b1] :: .ok w' :: .ok [p0, p1, p2] :: later →
    temperature s.cal (b0 ++ b1) = .ok (b5, t10) → pressure s.cal s.mode b5 (upOf s.mode (p0 ++ p1 ++ p2)) = .ok pres →
    ∃ t u, exec .readPressure s = .next t ∧ Runs 10 t u ∧
      ∃ t1 u1 t2 u2 t3 u3 t4 u4,
        exec .sampleT s = .next t1 ∧ Runs 4 t1 u1 ∧ exec .compT u1 = .next t2 ∧ Runs 1 t2 u2 ∧
          exec .sampleP u2 = .next t3 ∧ Runs 4 t3 u3 ∧ exec .compP u3 = .next t4 ∧ Runs 1 t4 u4 ∧
          { u4 with lastCmd := u.lastCmd, trace := u.trace } = u
end

