-- ==== Sys2Proof/Laws/Float64.lean ====
section
/-! SUPPORT. What the binary64 operations answer: the fields of a packed pattern, and the one fact about
rounding everything rests on. -/

namespace Sys2Proof.Laws

open Sys2Proof Sys2Proof.Machine

/-- The magnitude, in units of 2^-1074, of bits 62:0 read as a number. -/
def magOf (bits : Nat) : Nat :=
  if bits / 2 ^ 52 = 0 then bits % 2 ^ 52 else (bits % 2 ^ 52 + 2 ^ 52) * 2 ^ (bits / 2 ^ 52 - 1)

theorem f64Pack_toNat (s : Bool) {b : Nat} (h : b < 2 ^ 63) :
    (f64Pack s b).toNat = (if s then 2 ^ 63 else 0) + b := by
  unfold f64Pack
  rw [BitVec.toNat_append, BitVec.toNat_ofNat, Nat.mod_eq_of_lt h, ← Nat.shiftLeft_add_eq_or_of_lt h,
    Nat.shiftLeft_eq]
  cases s <;> simp

@[simp] theorem f64Sign_pack (s : Bool) {b : Nat} (h : b < 2 ^ 63) : f64Sign (f64Pack s b) = s := by
  unfold f64Sign
  rw [BitVec.getLsbD, f64Pack_toNat s h, Nat.testBit_eq_decide_div_mod_eq]
  cases s <;> (simp; try omega)

@[simp] theorem f64Exp_pack (s : Bool) {b : Nat} (h : b < 2 ^ 63) : f64Exp (f64Pack s b) = b / 2 ^ 52 := by
  unfold f64Exp
  rw [BitVec.extractLsb'_toNat, f64Pack_toNat s h, Nat.shiftRight_eq_div_pow]
  cases s <;> (simp; omega)

@[simp] theorem f64Frac_pack (s : Bool) {b : Nat} (h : b < 2 ^ 63) : f64Frac (f64Pack s b) = b % 2 ^ 52 := by
  unfold f64Frac
  rw [BitVec.extractLsb'_toNat, f64Pack_toNat s h]
  cases s <;> (simp; try omega)

theorem f64Mag_pack (s : Bool) {b : Nat} (h : b < 2 ^ 63) : f64Mag (f64Pack s b) = magOf b := by
  simp only [f64Mag, magOf, f64Exp_pack s h, f64Frac_pack s h]

/-- Every pattern is the pack of its sign and its bits 62:0. -/
theorem f64_eq_pack (x : F64) : x = f64Pack (f64Sign x) (f64Exp x * 2 ^ 52 + f64Frac x) := by
  have hx := x.isLt
  have h1 : f64Exp x = x.toNat / 2 ^ 52 % 2 ^ 11 := by
    unfold f64Exp; rw [BitVec.extractLsb'_toNat, Nat.shiftRight_eq_div_pow]
  have h2 : f64Frac x = x.toNat % 2 ^ 52 := by
    unfold f64Frac; rw [BitVec.extractLsb'_toNat]; simp
  have h3 : f64Sign x = decide (x.toNat / 2 ^ 63 % 2 = 1) := by
    unfold f64Sign; rw [BitVec.getLsbD, Nat.testBit_eq_decide_div_mod_eq]
  apply BitVec.eq_of_toNat_eq
  rw [f64Pack_toNat _ (by omega), h1, h2, h3]
  by_cases h : x.toNat / 2 ^ 63 % 2 = 1
  · simp only [h, decide_true, if_true]; omega
  · simp only [h, decide_false, Bool.false_eq_true, if_false]; omega

theorem f64Exp_lt (x : F64) : f64Exp x < 2048 := (x.extractLsb' 52 11).isLt

theorem f64Frac_lt (x : F64) : f64Frac x < 2 ^ 52 := (x.extractLsb' 0 52).isLt

theorem f64IsFinite_iff (x : F64) : f64IsFinite x = true ↔ f64Exp x ≤ 2046 := by
  have := f64Exp_lt x
  simp only [f64IsFinite, bne_iff_ne, ne_eq]; omega

theorem f64IsFinite_pack (s : Bool) {b : Nat} (h : b < f64InfBits) : f64IsFinite (f64Pack s b) = true := by
  unfold f64InfBits at h
  rw [f64IsFinite_iff, f64Exp_pack s (by omega)]; omega

/-- A significand `n` of at most 53 bits, or 2^53, at scale `k` stands for `n * 2^k` units. -/
theorem magOf_scaled {n k : Nat} (h1 : n ≤ 2 ^ 53) (h2 : k = 0 ∨ 2 ^ 52 ≤ n) : magOf (n + k * 2 ^ 52) = n * 2 ^ k := by
  unfold magOf
  by_cases hs : n < 2 ^ 52
  · obtain rfl : k = 0 := by omega
    have e1 : (n + 0 * 2 ^ 52) / 2 ^ 52 = 0 := by omega
    rw [if_pos e1]; omega
  by_cases hn : n = 2 ^ 53
  · have e1 : (n + k * 2 ^ 52) / 2 ^ 52 = k + 2 := by omega
    have e2 : (n + k * 2 ^ 52) % 2 ^ 52 = 0 := by omega
    rw [e1, e2, if_neg (by omega), hn, show k + 2 - 1 = k + 1 from rfl, Nat.pow_succ]; ring
  · have e1 : (n + k * 2 ^ 52) / 2 ^ 52 = k + 1 := by omega
    have e2 : (n + k * 2 ^ 52) % 2 ^ 52 = n - 2 ^ 52 := by omega
    rw [e1, e2, if_neg (by omega), show k + 1 - 1 = k from rfl, Nat.sub_add_cancel (by omega)]

/-- A finite magnitude of at least 2^(52 + k) units is a multiple of 2^k units. -/
theorem dvd_mag {x : F64} {k : Nat} (h : k = 0 ∨ 2 ^ (52 + k) ≤ f64Mag x) : 2 ^ k ∣ f64Mag x := by
  rcases h with rfl | h
  · simp
  unfold f64Mag at h ⊢
  have hf := f64Frac_lt x
  split
  · rename_i h0
    rw [if_pos h0] at h
    have : 2 ^ 52 ≤ 2 ^ (52 + k) := Nat.pow_le_pow_right (by omega) (by omega)
    omega
  · rename_i h0
    rw [if_neg h0] at h
    have hk : k ≤ f64Exp x - 1 := by
      by_contra hc
      have h1 : 2 ^ (f64Exp x - 1 + 1) ≤ 2 ^ k := Nat.pow_le_pow_right (by omega) (by omega)
      have h2 : (f64Frac x + 2 ^ 52) * 2 ^ (f64Exp x - 1) < 2 ^ 53 * 2 ^ (f64Exp x - 1) :=
        Nat.mul_lt_mul_of_pos_right (by omega) (by positivity)
      have h3 : 2 ^ 53 * 2 ^ (f64Exp x - 1) = 2 ^ 52 * 2 ^ (f64Exp x - 1 + 1) := by rw [Nat.pow_succ]; ring
      have h4 : 2 ^ 52 * 2 ^ (f64Exp x - 1 + 1) ≤ 2 ^ 52 * 2 ^ k := Nat.mul_le_mul_left _ h1
      rw [Nat.pow_add] at h
      omega
    exact Dvd.dvd.mul_left (pow_dvd_pow 2 hk) _

/-- The scale `k`, the significand `n` and the unit of a rounding: at that scale the quotient has at most 53
bits (exactly 53 where the scale is not the smallest), and n is a nearest significand, ties to even. -/
theorem roundBits_eq {num den : Nat} (hd : 0 < den) :
    ∃ n k : Nat, f64RoundBits num den = min (n + k * 2 ^ 52) f64InfBits ∧ n ≤ 2 ^ 53 ∧ (k = 0 ∨ 2 ^ 52 ≤ n)
      ∧ (k = 0 ∨ 2 ^ (52 + k) * den ≤ num)
      ∧ 2 * num ≤ (2 * n + 1) * (den * 2 ^ k) ∧ 2 * n * (den * 2 ^ k) ≤ 2 * num + den * 2 ^ k
      ∧ ((2 * num = (2 * n + 1) * (den * 2 ^ k) ∨ 2 * n * (den * 2 ^ k) = 2 * num + den * 2 ^ k) → n % 2 = 0) := by
  obtain ⟨k, hk⟩ : ∃ k, k = (num / den).log2 - 52 := ⟨_, rfl⟩
  obtain ⟨u, hu⟩ : ∃ u, u = den * 2 ^ k := ⟨_, rfl⟩
  have hu0 : 0 < u := by rw [hu]; positivity
  have hq : num / u = num / den / 2 ^ k := by rw [hu, Nat.div_div_eq_div_mul]
  have hlt : num / u < 2 ^ 53 := by
    rw [hq, Nat.div_lt_iff_lt_mul (by positivity), ← Nat.pow_add]
    refine lt_of_lt_of_le Nat.lt_log2_self (Nat.pow_le_pow_right (by omega) (by omega))
  have hge : k = 0 ∨ 2 ^ (52 + k) ≤ num / den := by
    by_cases h0 : k = 0
    · exact .inl h0
    · refine .inr ?_
      have hz : num / den ≠ 0 := by
        intro hz; rw [hz] at hk; simp at hk; exact h0 hk
      refine le_trans (Nat.pow_le_pow_right (by omega) ?_) (Nat.log2_self_le hz)
      omega
  have hge' : k = 0 ∨ 2 ^ 52 ≤ num / u := by
    refine hge.imp_right fun h => ?_
    rw [hq, Nat.le_div_iff_mul_le (by positivity), ← Nat.pow_add]; exact h
  have hdm := Nat.div_add_mod num u
  have hml := Nat.mod_lt num hu0
  have hnum : k = 0 ∨ 2 ^ (52 + k) * den ≤ num := by
    refine hge.imp_right fun h => ?_
    exact (Nat.le_div_iff_mul_le hd).1 h
  have hb : f64RoundBits num den
      = min ((if u < 2 * (num % u) ∨ (u = 2 * (num % u) ∧ num / u % 2 = 1) then num / u + 1 else num / u)
          + k * 2 ^ 52) f64InfBits := by
    simp only [f64RoundBits, ← hk, ← hu]
  generalize num / u = q at *
  generalize num % u = r at *
  refine ⟨_, k, hb, ?_⟩
  clear hb hge hq hk
  have e1 : (2 * q + 1) * u = 2 * (u * q) + u := by ring
  have e2 : 2 * q * u = 2 * (u * q) := by ring
  have e3 : (2 * (q + 1) + 1) * u = 2 * (u * q) + 3 * u := by ring
  have e4 : 2 * (q + 1) * u = 2 * (u * q) + 2 * u := by ring
  rw [← hu]
  split
  · rename_i hc
    rw [e3, e4]
    refine ⟨by omega, by omega, hnum, by omega, by omega, ?_⟩
    intro h; omega
  · rename_i hc
    rw [e1, e2]
    refine ⟨by omega, hge', hnum, by omega, by omega, ?_⟩
    intro h; omega

/-- Scaling numerator and denominator together changes no rounding. -/
theorem roundBits_scale {c : Nat} (hc : 0 < c) (num den : Nat) :
    f64RoundBits (num * c) (den * c) = f64RoundBits num den := by
  have h1 : num * c / (den * c) = num / den := Nat.mul_div_mul_right _ _ hc
  unfold f64RoundBits
  simp only [h1]
  have hu : den * c * 2 ^ ((num / den).log2 - 52) = den * 2 ^ ((num / den).log2 - 52) * c := by ring
  rw [hu]
  generalize den * 2 ^ ((num / den).log2 - 52) = u
  rw [Nat.mul_div_mul_right _ _ hc, Nat.mul_mod_mul_right]
  have e1 : (u * c < 2 * (num % u * c)) = (u < 2 * (num % u)) := by
    rw [← mul_assoc, Nat.mul_lt_mul_right hc]
  have e2 : (u * c = 2 * (num % u * c)) = (u = 2 * (num % u)) := by
    rw [← mul_assoc, Nat.mul_left_inj (by omega)]
  simp only [e1, e2]

/-- The magnitude a rounding packs is nearest the quotient among all finite magnitudes, ties to even, wherever
the quotient is below the least one that rounds to an infinity (R13). -/
theorem roundBits_nearest {num den : Nat} (hd : 0 < den) (hlt : num < den * ((2 ^ 54 - 1) * 2 ^ 2044)) :
    f64RoundBits num den < f64InfBits ∧ ∀ y : F64,
      ((num : Int) - den * magOf (f64RoundBits num den)).natAbs ≤ ((num : Int) - den * f64Mag y).natAbs
        ∧ (((num : Int) - den * magOf (f64RoundBits num den)).natAbs = ((num : Int) - den * f64Mag y).natAbs →
            f64Mag y ≠ magOf (f64RoundBits num den) → f64RoundBits num den % 2 = 0) := by
  obtain ⟨n, k, hb, hn, hk, hbig, h1, h2, hpar⟩ := roundBits_eq (num := num) hd
  have hfit : n + k * 2 ^ 52 < f64InfBits := by
    have hk1 : k ≤ 2045 := by
      by_contra hc
      have hb1 := hbig.resolve_left (by omega)
      obtain ⟨j, rfl⟩ := Nat.exists_eq_add_of_le (show 2046 ≤ k by omega)
      have e1 : 2 ^ 54 * 2 ^ 2044 ≤ 2 ^ (52 + (2046 + j)) := by
        rw [show 52 + (2046 + j) = 54 + (2044 + j) by omega, Nat.pow_add 2 54, Nat.pow_add 2 2044]
        exact Nat.mul_le_mul_left _ (Nat.le_mul_of_pos_right _ (Nat.two_pow_pos j))
      have e2 : 2 ^ 54 * 2 ^ 2044 * den ≤ num := le_trans (Nat.mul_le_mul_right _ e1) hb1
      have e4 : den * ((2 ^ 54 - 1) * 2 ^ 2044) ≤ 2 ^ 54 * 2 ^ 2044 * den := by
        rw [mul_comm]
        exact Nat.mul_le_mul_right _ (Nat.mul_le_mul_right _ (by norm_num))
      exact absurd (lt_of_lt_of_le hlt e4) (not_lt.2 e2)
    have hk2 : k = 2045 → n < 2 ^ 53 := by
      rintro rfl
      by_contra hc
      have hn' : n = 2 ^ 53 := by omega
      subst hn'
      have e1 : 2 * 2 ^ 53 * (den * 2 ^ 2045) = 2 * (2 ^ 54 * (den * 2 ^ 2044)) := by
        rw [show (2 : Nat) ^ 2045 = 2 * 2 ^ 2044 from by rw [← Nat.pow_succ']]; ring
      have e2 : den * 2 ^ 2045 = 2 * (den * 2 ^ 2044) := by
        rw [show (2 : Nat) ^ 2045 = 2 * 2 ^ 2044 from by rw [← Nat.pow_succ']]; ring
      have e3 : den * ((2 ^ 54 - 1) * 2 ^ 2044) = (2 ^ 54 - 1) * (den * 2 ^ 2044) := by ring
      rw [e1, e2] at h2
      rw [e3] at hlt
      clear hb hbig h1 hpar e1 e2 e3
      generalize den * 2 ^ 2044 = w at *
      omega
    clear hb hbig h1 h2 hpar hlt
    unfold f64InfBits
    omega
  have hbits : f64RoundBits num den = n + k * 2 ^ 52 := by rw [hb]; exact Nat.min_eq_left hfit.le
  rw [hbits]
  refine ⟨hfit, fun y => ?_⟩
  rw [magOf_scaled hn hk]
  obtain ⟨u, hu⟩ : ∃ u, u = den * 2 ^ k := ⟨_, rfl⟩
  have hu0 : 0 < u := by rw [hu]; positivity
  rw [← hu] at h1 h2 hpar
  have eN : ((den : Int) * ((n * 2 ^ k : Nat) : Int)) = ((n * u : Nat) : Int) := by
    rw [hu]; push_cast; ring
  have eM : ((den : Int) * (f64Mag y : Int)) = ((den * f64Mag y : Nat) : Int) := by push_cast; ring
  rw [eN, eM]
  have f1 : (2 * n + 1) * u = 2 * (n * u) + u := by ring
  have f2 : 2 * n * u = 2 * (n * u) := by ring
  rw [f1] at h1 hpar
  rw [f2] at h2 hpar
  have par : n % 2 = 0 → (n + k * 2 ^ 52) % 2 = 0 := by omega
  by_cases hm : k = 0 ∨ 2 ^ (52 + k) ≤ f64Mag y
  · obtain ⟨j, hj⟩ := dvd_mag hm
    have eJ : den * f64Mag y = j * u := by rw [hj, hu]; ring
    rw [eJ]
    rcases Nat.lt_trichotomy j n with h | h | h
    · have hle : (j + 1) * u ≤ n * u := Nat.mul_le_mul_right _ h
      have e : (j + 1) * u = j * u + u := by ring
      rw [e] at hle
      generalize j * u = J at *
      generalize n * u = N at *
      clear hb hfit hbits eN eM eJ f1 f2 hlt hbig hj hu hm
      refine ⟨by omega, fun he _ => par (hpar (by omega))⟩
    · subst h
      refine ⟨le_rfl, fun _ hne => absurd ?_ hne⟩
      rw [hj]; ring
    · have hle : (n + 1) * u ≤ j * u := Nat.mul_le_mul_right _ h
      have e : (n + 1) * u = n * u + u := by ring
      rw [e] at hle
      generalize j * u = J at *
      generalize n * u = N at *
      clear hb hfit hbits eN eM eJ f1 f2 hlt hbig hj hu hm
      refine ⟨by omega, fun he _ => par (hpar (by omega))⟩
  · push Not at hm
    have hk0 := hm.1
    have g1 := hbig.resolve_left hk0
    have g2 := hk.resolve_left hk0
    have e1 : 2 ^ (52 + k) * den = 2 ^ 52 * u := by rw [hu, Nat.pow_add]; ring
    have g3 : den * f64Mag y < 2 ^ 52 * u := by
      rw [← e1, mul_comm]; exact Nat.mul_lt_mul_of_pos_right hm.2 hd
    rw [e1] at g1
    have g4 : 2 ^ 52 * u ≤ n * u := Nat.mul_le_mul_right _ g2
    have g5 : n = 2 ^ 52 ∨ 2 ^ 52 * u + u ≤ n * u := by
      rcases Nat.eq_or_lt_of_le g2 with h | h
      · exact .inl h.symm
      · right
        have : (2 ^ 52 + 1) * u ≤ n * u := Nat.mul_le_mul_right _ h
        rwa [Nat.add_mul, one_mul] at this
    have g6 : n = 2 ^ 52 → n * u = 2 ^ 52 * u := by rintro rfl; rfl
    generalize den * f64Mag y = M at *
    generalize n * u = N at *
    clear hb hfit hbits eN eM f1 f2 hlt hbig hu hm hk e1 hpar par
    refine ⟨by omega, fun he _ => ?_⟩
    omega

/-- The value a rounding packs, with its sign. -/
theorem f64Units_round {num den : Nat} (s : Bool) (h : f64RoundBits num den < f64InfBits) :
    f64Units (f64Round s num den) =
      if s then -(magOf (f64RoundBits num den) : Int) else (magOf (f64RoundBits num den) : Int) := by
  have hb : f64RoundBits num den < 2 ^ 63 := by
    have : f64InfBits < 2 ^ 63 := by norm_num [f64InfBits]
    omega
  unfold f64Units f64Round
  rw [f64Sign_pack s hb, f64Mag_pack s hb]

/-- A rounding of a quotient that does not overflow is a nearest finite value, ties to even (R13). -/
theorem f64Round_nearest {num den : Nat} (s : Bool) (hd : 0 < den)
    (hlt : num < den * ((2 ^ 54 - 1) * 2 ^ 2044)) :
    f64IsFinite (f64Round s num den) = true ∧ ∀ y : F64,
      let v : Int := if s then -(num : Int) else num
      (v - den * f64Units (f64Round s num den)).natAbs ≤ (v - den * f64Units y).natAbs
        ∧ ((v - den * f64Units (f64Round s num den)).natAbs = (v - den * f64Units y).natAbs →
            f64Units y ≠ f64Units (f64Round s num den) → f64Frac (f64Round s num den) % 2 = 0) := by
  obtain ⟨hfit, hnear⟩ := roundBits_nearest hd hlt
  have hb : f64RoundBits num den < 2 ^ 63 := by
    have : f64InfBits < 2 ^ 63 := by norm_num [f64InfBits]
    omega
  refine ⟨f64IsFinite_pack s hfit, fun y => ?_⟩
  have hfr : f64Frac (f64Round s num den) % 2 = f64RoundBits num den % 2 := by
    unfold f64Round
    rw [f64Frac_pack s hb]; omega
  rw [f64Units_round s hfit, hfr]
  obtain ⟨a1, a2⟩ := hnear y
  obtain ⟨z1, -⟩ := hnear (f64Pack false 0)
  have hz : f64Mag (f64Pack false 0) = 0 := by decide
  rw [hz] at z1
  have hneg : ∀ m : Nat, (den : Int) * -(m : Int) = -((den : Int) * m) := fun m => by ring
  have hnn : (0 : Int) ≤ (den : Int) * (f64Mag y : Int) :=
    Int.mul_nonneg (Int.natCast_nonneg _) (Int.natCast_nonneg _)
  have hr0 : (0 : Int) ≤ (den : Int) * (magOf (f64RoundBits num den) : Int) :=
    Int.mul_nonneg (Int.natCast_nonneg _) (Int.natCast_nonneg _)
  have hpos : f64Mag y ≠ 0 → (0 : Int) < (den : Int) * (f64Mag y : Int) := fun h =>
    Int.mul_pos (Int.natCast_pos.2 hd) (Int.natCast_pos.2 (Nat.pos_of_ne_zero h))
  unfold f64Units
  generalize f64RoundBits num den % 2 = par at *
  generalize magOf (f64RoundBits num den) = R at *
  clear hnear hfit hb hfr hlt hz
  generalize f64Mag y = m at *
  cases s <;> cases f64Sign y <;>
    simp only [if_true, if_false, Bool.false_eq_true, hneg] at *
  · refine ⟨by omega, fun e hne => a2 (by omega) (by omega)⟩
  · refine ⟨by omega, fun e hne => ?_⟩
    by_cases h0 : m = 0
    · subst h0
      refine a2 ?_ ?_ <;> omega
    · have := hpos h0; omega
  · refine ⟨by omega, fun e hne => ?_⟩
    by_cases h0 : m = 0
    · subst h0
      refine a2 ?_ ?_ <;> omega
    · have := hpos h0; omega
  · refine ⟨by omega, fun e hne => a2 (by omega) (by omega)⟩

/-- A number of at most 53 bits at any scale that fits rounds to itself. -/
theorem roundBits_exact {num den m : Nat} (hd : 0 < den) (hlt : num < den * ((2 ^ 54 - 1) * 2 ^ 2044))
    (h : num = den * m) (hm : ∃ y : F64, f64Mag y = m) : magOf (f64RoundBits num den) = m := by
  obtain ⟨y, hy⟩ := hm
  have h1 := ((roundBits_nearest hd hlt).2 y).1
  have e : (num : Int) - den * f64Mag y = 0 := by rw [hy, h]; push_cast; ring
  rw [e, Int.natAbs_zero, Nat.le_zero, Int.natAbs_eq_zero] at h1
  have e2 : (den : Int) * magOf (f64RoundBits num den) = den * m := by
    rw [sub_eq_zero] at h1; rw [← h1, h]; push_cast; rfl
  exact_mod_cast mul_left_cancel₀ (by exact_mod_cast hd.ne') e2

/-- No rounding is past an infinity. -/
theorem roundBits_le (num den : Nat) : f64RoundBits num den ≤ f64InfBits := Nat.min_le_right _ _

theorem roundBits_lt (num den : Nat) : f64RoundBits num den < 2 ^ 63 := by
  have e : f64InfBits < 2 ^ 63 := by norm_num [f64InfBits]
  exact lt_of_le_of_lt (roundBits_le num den) e

/-- A quotient above half a unit does not round to zero. -/
theorem roundBits_ne_zero {num den : Nat} (hd : 0 < den) (h : den < 2 * num) : f64RoundBits num den ≠ 0 := by
  obtain ⟨n, k, hb, -, -, -, h1, -⟩ := roundBits_eq (num := num) hd
  have hi : f64InfBits ≠ 0 := by decide
  rw [hb]
  intro hz
  have hs : n + k * 2 ^ 52 = 0 := by
    rcases Nat.le_total (n + k * 2 ^ 52) f64InfBits with h | h
    · rwa [Nat.min_eq_left h] at hz
    · rw [Nat.min_eq_right h] at hz; exact absurd hz hi
  obtain ⟨rfl, rfl⟩ : n = 0 ∧ k = 0 := by omega
  simp only [Nat.mul_zero, Nat.zero_add, Nat.pow_zero, Nat.mul_one, Nat.one_mul] at h1
  omega

/-- Every number of at most 53 bits is the magnitude of a pattern. -/
theorem exists_mag_eq {m : Nat} (h : m < 2 ^ 53) : ∃ y : F64, f64Mag y = m * 2 ^ 1074 := by
  obtain ⟨r, hr⟩ : ∃ k, k = m.log2 := ⟨_, rfl⟩
  by_cases h0 : m = 0
  · exact ⟨f64Zero false, by rw [h0, Nat.zero_mul]; decide⟩
  have h1 := Nat.log2_self_le h0
  have h2 := @Nat.lt_log2_self m
  rw [← hr] at h1 h2
  have hr52 : r ≤ 52 := by
    by_contra hc
    have : 2 ^ 53 ≤ 2 ^ r := Nat.pow_le_pow_right (by omega) (by omega)
    omega
  have e : m * 2 ^ (52 - r) < 2 ^ 53 := by
    have := Nat.mul_lt_mul_of_pos_right h2 (Nat.two_pow_pos (52 - r))
    rwa [← Nat.pow_add, show r + 1 + (52 - r) = 53 by omega] at this
  have e' : 2 ^ 52 ≤ m * 2 ^ (52 - r) := by
    have := Nat.mul_le_mul_right (2 ^ (52 - r)) h1
    rwa [← Nat.pow_add, show r + (52 - r) = 52 by omega] at this
  refine ⟨f64Pack false (m * 2 ^ (52 - r) + (1022 + r) * 2 ^ 52), ?_⟩
  rw [f64Mag_pack _ (by omega), magOf_scaled (by omega) (by omega), Nat.mul_assoc, ← Nat.pow_add,
    show 52 - r + (1022 + r) = 1074 by omega]

/-- A finite pattern is neither a NaN nor an infinity. -/
theorem isNaN_isInf_of_finite {a : F64} (h : f64IsFinite a = true) : f64IsNaN a = false ∧ f64IsInf a = false := by
  rw [f64IsFinite_iff] at h
  constructor <;> simp [f64IsNaN, f64IsInf] <;> omega

theorem f64Units_natAbs (x : F64) : (f64Units x).natAbs = f64Mag x := by
  unfold f64Units; split <;> simp

theorem f64IsZero_iff (x : F64) : f64IsZero x = true ↔ f64Mag x = 0 := by
  unfold f64IsZero f64Mag
  split <;> rename_i h <;> simp [h]

theorem f64Neg_pack (s : Bool) (b : Nat) : f64Neg (f64Pack s b) = f64Pack (!s) b := by
  unfold f64Neg f64Pack
  apply BitVec.eq_of_getLsbD_eq
  intro i hi
  rw [BitVec.getLsbD_xor, BitVec.getLsbD_append, BitVec.getLsbD_append, BitVec.getLsbD_ofBool,
    BitVec.getLsbD_ofBool]
  have hbit : ∀ i < 64, (0x8000000000000000 : F64).getLsbD i = decide (i = 63) := by decide
  rw [hbit i hi]
  by_cases h : i < 63
  · simp [h, show ¬i = 63 by omega]
  · obtain rfl : i = 63 := by omega
    simp

/-- Flipping the sign bit changes the sign of the value and nothing else (R13). -/
theorem f64Neg_fields (x : F64) :
    f64Sign (f64Neg x) = !f64Sign x ∧ f64Exp (f64Neg x) = f64Exp x ∧ f64Frac (f64Neg x) = f64Frac x := by
  have hb : f64Exp x * 2 ^ 52 + f64Frac x < 2 ^ 63 := by
    have := f64Exp_lt x; have := f64Frac_lt x; omega
  have hx := f64_eq_pack x
  generalize f64Exp x * 2 ^ 52 + f64Frac x = b at *
  generalize f64Sign x = s at *
  subst hx
  rw [f64Neg_pack, f64Sign_pack _ hb, f64Exp_pack _ hb, f64Frac_pack _ hb, f64Exp_pack _ hb, f64Frac_pack _ hb]
  exact ⟨rfl, rfl, rfl⟩

theorem f64Neg_units (x : F64) : f64Units (f64Neg x) = -f64Units x := by
  obtain ⟨h1, h2, h3⟩ := f64Neg_fields x
  simp only [f64Units, f64Mag, h1, h2, h3]
  cases f64Sign x <;> simp

/-- An operation with a NaN operand answers the free NaN pattern it is given (I3). -/
theorem f64_nan_operand {n a b : F64} (h : f64IsNaN a = true ∨ f64IsNaN b = true) :
    f64Add n a b = n ∧ f64Sub n a b = n ∧ f64Mul n a b = n ∧ f64Div n a b = n := by
  obtain ⟨-, h2, h3⟩ := f64Neg_fields b
  have hn : f64IsNaN (f64Neg b) = f64IsNaN b := by simp only [f64IsNaN, h2, h3]
  refine ⟨?_, ?_, ?_, ?_⟩
  · unfold f64Add; rw [if_pos (by simpa using h)]
  · unfold f64Sub f64Add; rw [if_pos (by simpa [hn] using h)]
  · unfold f64Mul; simp only; rw [if_pos (by simpa using h)]
  · unfold f64Div; simp only; rw [if_pos (by simpa using h)]

/-- Whatever the free pattern, what is made of it is a NaN (I3, POW-3, POW-6). -/
theorem isNaN_asNaN (x : F64) : f64IsNaN (asNaN x) = true := by
  unfold asNaN
  split
  · assumption
  · have hbit : ∀ i < 64, 51 ≤ i → i < 63 → (0x7FF8000000000000 : F64).getLsbD i = true := by decide
    have e1 : (x ||| 0x7FF8000000000000).extractLsb' 52 11 = 2047#11 := by
      apply BitVec.eq_of_getLsbD_eq
      intro i hi
      rw [BitVec.getLsbD_extractLsb', BitVec.getLsbD_or, hbit (52 + i) (by omega) (by omega) (by omega)]
      have : ∀ i < 11, (2047#11).getLsbD i = true := by decide
      simp [hi, this i hi]
    have e2 : f64Frac (x ||| 0x7FF8000000000000) ≠ 0 := by
      unfold f64Frac
      intro hz
      have : ((x ||| 0x7FF8000000000000).extractLsb' 0 52).getLsbD 51 = true := by
        rw [BitVec.getLsbD_extractLsb', BitVec.getLsbD_or, hbit (0 + 51) (by omega) (by omega) (by omega)]; simp
      rw [BitVec.getLsbD, hz] at this; simp at this
    have e3 : f64Exp (x ||| 0x7FF8000000000000) = 2047 := by unfold f64Exp; rw [e1]; rfl
    unfold f64IsNaN
    rw [e3, Bool.and_eq_true]
    exact ⟨rfl, by rw [bne_iff_ne]; exact e2⟩

/-- Whatever the free pattern, what is made of it is not a NaN (POW-7). -/
theorem isNaN_asNumber (x : F64) : f64IsNaN (asNumber x) = false := by
  unfold asNumber
  split
  · have hbit : ∀ i < 11, (0x800FFFFFFFFFFFFF : F64).getLsbD (52 + i) = false := by decide
    have e1 : (x &&& 0x800FFFFFFFFFFFFF).extractLsb' 52 11 = 0#11 := by
      apply BitVec.eq_of_getLsbD_eq
      intro i hi
      rw [BitVec.getLsbD_extractLsb', BitVec.getLsbD_and, hbit i hi]
      simp
    have e3 : f64Exp (x &&& 0x800FFFFFFFFFFFFF) = 0 := by unfold f64Exp; rw [e1]; rfl
    unfold f64IsNaN
    rw [e3]; rfl
  · rename_i h; simpa using h

theorem isNaN_freshNaN (n : Nat) : f64IsNaN (freshNaN n) = true := isNaN_asNaN _

end Sys2Proof.Laws
end

