-- ==== Sys2Proof/Laws/Altitude.lean ====
section
/-! SUPPORT. What the Altitude function answers: R203's chain everywhere but where a finite negative sea-level
pressure overflows the ratio, and NaN there. -/

namespace Sys2Proof.Laws

open Sys2Proof Sys2Proof.Machine

/-- A finite negative sea-level pressure whose ratio overflows to -inf (log 10). -/
def RatioOverflows (ratio s : F64) : Prop :=
  f64IsFinite s = true ∧ f64IsNegative s = true ∧ ratio = f64Inf true

theorem ratioPower_eq_pow {nan ratio s : F64} (h : ¬ RatioOverflows ratio s) :
    ratioPower nan ratio s = pow ratio expAlt := by
  unfold ratioPower
  rw [if_neg]
  simpa [RatioOverflows, and_assoc] using h

theorem ratioPower_eq_nan {nan ratio s : F64} (h : RatioOverflows ratio s) : ratioPower nan ratio s = nan := by
  unfold ratioPower
  rw [if_pos]
  simpa [RatioOverflows, and_assoc] using h

/-- A NaN power makes a NaN altitude. -/
theorem isNaN_altitude {n : Nat} {p : Int} {s : F64}
    (h : f64IsNaN (ratioPower (freshNaN n) (f64Div (freshNaN n) (f64OfInt p) s) s) = true) :
    f64IsNaN (altitude n p s) = true := by
  unfold altitude
  simp only [f64_nan_operand (n := freshNaN (n + 1)) (a := f64One) (.inr h),
    f64_nan_operand (n := freshNaN (n + 2)) (a := Config.kAlt) (.inr (isNaN_freshNaN (n + 1))), isNaN_freshNaN]

/-- R203, step by step, wherever the ratio does not overflow under a negative sea-level pressure. -/
theorem altitude_eq_formula {n : Nat} {p : Int} {s : F64}
    (h : ¬ RatioOverflows (f64Div (freshNaN n) (f64OfInt p) s) s) :
    altitude n p s =
      f64Mul (freshNaN (n + 2)) Config.kAlt
        (f64Sub (freshNaN (n + 1)) f64One (pow (f64Div (freshNaN n) (f64OfInt p) s) expAlt)) := by
  simp only [altitude, ratioPower_eq_pow h]

end Sys2Proof.Laws
end

