-- ==== Sys2Proof/Laws/Arith.lean ====
section
/-! SUPPORT. What the lane checks and the pipelines can answer. -/

namespace Sys2Proof.Laws

open Sys2Proof Sys2Proof.Machine

theorem s32_of_mem {st : PipeStep} {v : Int} (h1 : -2147483648 ≤ v) (h2 : v ≤ 2147483647) : s32 st v = .ok v := by
  simp [s32, h1, h2]

theorem u32_of_mem {st : PipeStep} {v : Int} (h1 : 0 ≤ v) (h2 : v ≤ 4294967295) : u32 st v = .ok v := by
  simp [u32, h1, h2]

theorem s32_of_not_mem {st : PipeStep} {v : Int} (h : v < -2147483648 ∨ 2147483647 < v) :
    s32 st v = .error ⟨.range, st⟩ := by
  have : ¬(-2147483648 ≤ v ∧ v ≤ 2147483647) := by omega
  simp only [s32, if_neg this]

theorem u32_of_not_mem {st : PipeStep} {v : Int} (h : v < 0 ∨ 4294967295 < v) :
    u32 st v = .error ⟨.range, st⟩ := by
  have : ¬(0 ≤ v ∧ v ≤ 4294967295) := by omega
  simp only [u32, if_neg this]

/-- All that a signed lane check can answer with a value. -/
theorem s32_eq_ok {st : PipeStep} {v w : Int} : s32 st v = .ok w ↔ w = v ∧ -2147483648 ≤ v ∧ v ≤ 2147483647 := by
  unfold s32; split
  · simp_all [eq_comm]
  · simp only [reduceCtorEq, false_iff]; omega

/-- All that an unsigned lane check can answer with a value. -/
theorem u32_eq_ok {st : PipeStep} {v w : Int} : u32 st v = .ok w ↔ w = v ∧ 0 ≤ v ∧ v ≤ 4294967295 := by
  unfold u32; split
  · simp_all [eq_comm]
  · simp only [reduceCtorEq, false_iff]; omega

/-- A bind in a pipeline answers a value exactly when its parts do. -/
theorem bind_eq_ok {α β ε : Type} {x : Except ε α} {f : α → Except ε β} {b : β} :
    x >>= f = .ok b ↔ ∃ a, x = .ok a ∧ f a = .ok b := by
  cases x <;> simp [bind, Except.bind]

theorem ok_bind {α β ε : Type} (a : α) (f : α → Except ε β) : (Except.ok a : Except ε α) >>= f = f a := rfl

theorem error_bind {α β ε : Type} (e : ε) (f : α → Except ε β) : (Except.error e : Except ε α) >>= f = .error e := rfl

/-- The quotient of a truncating division is no larger in magnitude than its dividend. -/
theorem natAbs_tdiv_le (a b : Int) : (tdiv a b).natAbs ≤ a.natAbs := by
  unfold tdiv
  rw [Int.natAbs_tdiv]
  exact Nat.div_le_self _ _

/-- Step11 in closed form: what it answers with a value (R176). -/
theorem step11_eq_ok {b7 b4 p : Int} (h : step11 b7 b4 = .ok p) :
    b4 ≠ 0 ∧ -2147483648 ≤ p ∧ p ≤ 2147483647 ∧
      ((b7 < 0x80000000 ∧ p = tdiv (b7 * 2) b4 ∧ 0 ≤ b7 * 2 ∧ b7 * 2 ≤ 4294967295)
        ∨ (0x80000000 ≤ b7 ∧ p = tdiv b7 b4 * 2 ∧ 0 ≤ tdiv b7 b4 * 2)) := by
  unfold step11 at h
  split at h
  · simp at h
  · split at h
    · obtain ⟨m, hm, hp⟩ := bind_eq_ok.1 h
      obtain ⟨rfl, h1, h2⟩ := u32_eq_ok.1 hm
      obtain ⟨rfl, h3, h4⟩ := s32_eq_ok.1 hp
      exact ⟨‹_›, h3, h4, .inl ⟨‹_›, rfl, h1, h2⟩⟩
    · obtain ⟨m, hm, hp⟩ := bind_eq_ok.1 h
      obtain ⟨rfl, h1, h2⟩ := u32_eq_ok.1 hm
      obtain ⟨rfl, h3, h4⟩ := s32_eq_ok.1 hp
      exact ⟨‹_›, h3, h4, .inr ⟨by omega, rfl, h1⟩⟩

/-- Steps P12 to P14 give a pressure of at least 236 for every p that is not negative (property Q3). -/
theorem compPStage4_bounds {p v : Int} (hp : 0 ≤ p) (h : compPStage4 p = .ok v) : 236 ≤ v ∧ v ≤ 2147483647 := by
  unfold compPStage4 asr at h
  obtain ⟨x1, h1, h⟩ := bind_eq_ok.1 h
  obtain ⟨rfl, -, -⟩ := s32_eq_ok.1 h1
  obtain ⟨x2, h2, h⟩ := bind_eq_ok.1 h
  obtain ⟨rfl, -, -⟩ := s32_eq_ok.1 h2
  obtain ⟨x3, h3, h⟩ := bind_eq_ok.1 h
  obtain ⟨rfl, -, -⟩ := s32_eq_ok.1 h3
  obtain ⟨w, h4, h⟩ := bind_eq_ok.1 h
  obtain ⟨rfl, -, -⟩ := s32_eq_ok.1 h4
  obtain ⟨w', h5, h⟩ := bind_eq_ok.1 h
  obtain ⟨rfl, -, -⟩ := s32_eq_ok.1 h5
  obtain ⟨rfl, h6, h7⟩ := s32_eq_ok.1 h
  have hsq : 0 ≤ p / 2 ^ 8 * (p / 2 ^ 8) := mul_self_nonneg _
  generalize p / 2 ^ 8 * (p / 2 ^ 8) = sq at *
  omega

/-- What CompT returns fits the 32-bit registers B5 and T10 (R172). -/
theorem compT_mem {ut ac5 ac6 mc md b5 t10 : Int} (h : compT ut ac5 ac6 mc md = .ok (b5, t10)) :
    -2147483648 ≤ b5 ∧ b5 ≤ 2147483647 ∧ -2147483648 ≤ t10 ∧ t10 ≤ 2147483647 := by
  unfold compT at h
  simp only [bind_eq_ok, s32_eq_ok] at h
  obtain ⟨_, -, _, -, _, -, _, -, h⟩ := h
  split at h
  · simp at h
  · simp only [bind_eq_ok, s32_eq_ok] at h
    obtain ⟨b, ⟨rfl, h1, h2⟩, u, ⟨rfl, h3, h4⟩, h5⟩ := h
    simp only [pure, Except.pure, Except.ok.injEq, Prod.mk.injEq, asr] at h5 h1 h2 h3 h4
    omega

/-- The parts of a CompP that returns (R175). -/
theorem compP_eq_ok {b5 up : Int} {mode : Nat} {ac1 ac2 ac3 ac4 b1 b2 pres : Int} :
    compP b5 up mode ac1 ac2 ac3 ac4 b1 b2 = .ok pres ↔
      ∃ b6 q b3 b4 b7 p, compPStage1 b5 ac1 ac2 b2 mode = .ok (b6, q, b3) ∧ compPStage2 b6 q ac3 ac4 b1 = .ok b4
        ∧ compPStage3 up b3 mode = .ok b7 ∧ step11 b7 b4 = .ok p ∧ compPStage4 p = .ok pres := by
  unfold compP
  simp only [bind_eq_ok]
  constructor
  · rintro ⟨⟨b6, q, b3⟩, h1, b4, h2, b7, h3, p, h4, h5⟩
    exact ⟨b6, q, b3, b4, b7, p, h1, h2, h3, h4, h5⟩
  · rintro ⟨b6, q, b3, b4, b7, p, h1, h2, h3, h4, h5⟩
    exact ⟨(b6, q, b3), h1, b4, h2, b7, h3, p, h4, h5⟩

/-- What steps P12 to P14 return fits the 32-bit register PRES (R175). -/
theorem compPStage4_mem {p v : Int} (h : compPStage4 p = .ok v) : -2147483648 ≤ v ∧ v ≤ 2147483647 := by
  unfold compPStage4 at h
  simp only [bind_eq_ok, s32_eq_ok] at h
  obtain ⟨_, -, _, -, _, -, _, -, _, -, rfl, h1, h2⟩ := h
  exact ⟨h1, h2⟩

/-- Steps P6 to P9 return a B4 that is not negative, for an AC4 that is not. -/
theorem compPStage2_nonneg {b6 q ac3 ac4 b1 b4 : Int} (h : compPStage2 b6 q ac3 ac4 b1 = .ok b4) : 0 ≤ b4 := by
  unfold compPStage2 at h
  simp only [bind_eq_ok, s32_eq_ok, u32_eq_ok] at h
  obtain ⟨_, -, _, -, _, -, _, -, _, -, w, ⟨rfl, h1, -⟩, h2⟩ := h
  simp only [pure, Except.pure, Except.ok.injEq, asr] at h2
  omega

/-- Step P10 returns a B7 of the unsigned lane (R178). -/
theorem compPStage3_mem {up b3 b7 : Int} {mode : Nat} (h : compPStage3 up b3 mode = .ok b7) :
    0 ≤ b7 ∧ b7 ≤ 4294967295 := by
  unfold compPStage3 at h
  simp only [bind_eq_ok, u32_eq_ok] at h
  obtain ⟨_, -, rfl, h1, h2⟩ := h
  exact ⟨h1, h2⟩

/-- What Step11 returns is not negative, for operands that are not (R176). -/
theorem step11_nonneg {b7 b4 p : Int} (h4 : 0 ≤ b4) (h : step11 b7 b4 = .ok p) : 0 ≤ p := by
  obtain ⟨-, -, -, ⟨-, rfl, h1, -⟩ | ⟨-, rfl, h1⟩⟩ := step11_eq_ok h
  · exact Int.tdiv_nonneg h1 h4
  · exact h1

/-- Whenever CompP returns, the pressure is at least 236 (property Q3, R207). -/
theorem compP_ge {b5 up : Int} {mode : Nat} {ac1 ac2 ac3 ac4 b1 b2 pres : Int}
    (h : compP b5 up mode ac1 ac2 ac3 ac4 b1 b2 = .ok pres) : 236 ≤ pres ∧ pres ≤ 2147483647 := by
  obtain ⟨b6, q, b3, b4, b7, p, -, h2, -, h4, h5⟩ := compP_eq_ok.1 h
  exact compPStage4_bounds (step11_nonneg (compPStage2_nonneg h2) h4) h5

/-- A register write of a value in the signed lane reads back as the value. -/
theorem toInt_ofInt32 {x : Int} (h1 : -2147483648 ≤ x) (h2 : x ≤ 2147483647) : (BitVec.ofInt 32 x).toInt = x := by
  rw [BitVec.toInt_ofInt]
  exact Int.bmod_eq_of_le (by omega) (by omega)

end Sys2Proof.Laws
end

