-- ==== Sys2Proof/Laws/State.lean ====
section
/-! SUPPORT. What each shared update does to each field of the state, true by rfl. -/

namespace Sys2Proof.Laws

open Sys2Proof Sys2Proof.Machine

@[simp] theorem record_mode (e : Event) (s : State) : (record e s).mode = s.mode := rfl
@[simp] theorem record_devAddr (e : Event) (s : State) : (record e s).devAddr = s.devAddr := rfl
@[simp] theorem record_cal (e : Event) (s : State) : (record e s).cal = s.cal := rfl
@[simp] theorem record_calValid (e : Event) (s : State) : (record e s).calValid = s.calValid := rfl
@[simp] theorem record_stg (e : Event) (s : State) : (record e s).stg = s.stg := rfl
@[simp] theorem record_rxbuf (e : Event) (s : State) : (record e s).rxbuf = s.rxbuf := rfl
@[simp] theorem record_ut (e : Event) (s : State) : (record e s).ut = s.ut := rfl
@[simp] theorem record_utValid (e : Event) (s : State) : (record e s).utValid = s.utValid := rfl
@[simp] theorem record_up (e : Event) (s : State) : (record e s).up = s.up := rfl
@[simp] theorem record_upValid (e : Event) (s : State) : (record e s).upValid = s.upValid := rfl
@[simp] theorem record_b5 (e : Event) (s : State) : (record e s).b5 = s.b5 := rfl
@[simp] theorem record_b5Valid (e : Event) (s : State) : (record e s).b5Valid = s.b5Valid := rfl
@[simp] theorem record_t10 (e : Event) (s : State) : (record e s).t10 = s.t10 := rfl
@[simp] theorem record_tempC (e : Event) (s : State) : (record e s).tempC = s.tempC := rfl
@[simp] theorem record_tValid (e : Event) (s : State) : (record e s).tValid = s.tValid := rfl
@[simp] theorem record_pres (e : Event) (s : State) : (record e s).pres = s.pres := rfl
@[simp] theorem record_pValid (e : Event) (s : State) : (record e s).pValid = s.pValid := rfl
@[simp] theorem record_altOut (e : Event) (s : State) : (record e s).altOut = s.altOut := rfl
@[simp] theorem record_altValid (e : Event) (s : State) : (record e s).altValid = s.altValid := rfl
@[simp] theorem record_slpOut (e : Event) (s : State) : (record e s).slpOut = s.slpOut := rfl
@[simp] theorem record_slpValid (e : Event) (s : State) : (record e s).slpValid = s.slpValid := rfl
@[simp] theorem record_sealevelIn (e : Event) (s : State) : (record e s).sealevelIn = s.sealevelIn := rfl
@[simp] theorem record_altitudeIn (e : Event) (s : State) : (record e s).altitudeIn = s.altitudeIn := rfl
@[simp] theorem record_ovr (e : Event) (s : State) : (record e s).ovr = s.ovr := rfl
@[simp] theorem record_err (e : Event) (s : State) : (record e s).err = s.err := rfl
@[simp] theorem record_lastCmd (e : Event) (s : State) : (record e s).lastCmd = s.lastCmd := rfl
@[simp] theorem record_seq (e : Event) (s : State) : (record e s).seq = s.seq := rfl
@[simp] theorem record_timer (e : Event) (s : State) : (record e s).timer = s.timer := rfl
@[simp] theorem record_inFlight (e : Event) (s : State) : (record e s).inFlight = s.inFlight := rfl
@[simp] theorem record_params (e : Event) (s : State) : (record e s).params = s.params := rfl
@[simp] theorem record_agenda (e : Event) (s : State) : (record e s).agenda = s.agenda := rfl
@[simp] theorem record_answers (e : Event) (s : State) : (record e s).answers = s.answers := rfl
@[simp] theorem record_trace (e : Event) (s : State) : (record e s).trace = s.trace ++ [e] := rfl
@[simp] theorem record_nanCount (e : Event) (s : State) : (record e s).nanCount = s.nanCount := rfl

@[simp] theorem raiseError_mode (e : ErrCode) (s : State) : (raiseError e s).mode = s.mode := rfl
@[simp] theorem raiseError_devAddr (e : ErrCode) (s : State) : (raiseError e s).devAddr = s.devAddr := rfl
@[simp] theorem raiseError_cal (e : ErrCode) (s : State) : (raiseError e s).cal = s.cal := rfl
@[simp] theorem raiseError_calValid (e : ErrCode) (s : State) : (raiseError e s).calValid = s.calValid := rfl
@[simp] theorem raiseError_stg (e : ErrCode) (s : State) : (raiseError e s).stg = s.stg := rfl
@[simp] theorem raiseError_rxbuf (e : ErrCode) (s : State) : (raiseError e s).rxbuf = s.rxbuf := rfl
@[simp] theorem raiseError_ut (e : ErrCode) (s : State) : (raiseError e s).ut = s.ut := rfl
@[simp] theorem raiseError_utValid (e : ErrCode) (s : State) : (raiseError e s).utValid = s.utValid := rfl
@[simp] theorem raiseError_up (e : ErrCode) (s : State) : (raiseError e s).up = s.up := rfl
@[simp] theorem raiseError_upValid (e : ErrCode) (s : State) : (raiseError e s).upValid = s.upValid := rfl
@[simp] theorem raiseError_b5 (e : ErrCode) (s : State) : (raiseError e s).b5 = s.b5 := rfl
@[simp] theorem raiseError_b5Valid (e : ErrCode) (s : State) : (raiseError e s).b5Valid = s.b5Valid := rfl
@[simp] theorem raiseError_t10 (e : ErrCode) (s : State) : (raiseError e s).t10 = s.t10 := rfl
@[simp] theorem raiseError_tempC (e : ErrCode) (s : State) : (raiseError e s).tempC = s.tempC := rfl
@[simp] theorem raiseError_tValid (e : ErrCode) (s : State) : (raiseError e s).tValid = s.tValid := rfl
@[simp] theorem raiseError_pres (e : ErrCode) (s : State) : (raiseError e s).pres = s.pres := rfl
@[simp] theorem raiseError_pValid (e : ErrCode) (s : State) : (raiseError e s).pValid = s.pValid := rfl
@[simp] theorem raiseError_altOut (e : ErrCode) (s : State) : (raiseError e s).altOut = s.altOut := rfl
@[simp] theorem raiseError_altValid (e : ErrCode) (s : State) : (raiseError e s).altValid = s.altValid := rfl
@[simp] theorem raiseError_slpOut (e : ErrCode) (s : State) : (raiseError e s).slpOut = s.slpOut := rfl
@[simp] theorem raiseError_slpValid (e : ErrCode) (s : State) : (raiseError e s).slpValid = s.slpValid := rfl
@[simp] theorem raiseError_sealevelIn (e : ErrCode) (s : State) : (raiseError e s).sealevelIn = s.sealevelIn := rfl
@[simp] theorem raiseError_altitudeIn (e : ErrCode) (s : State) : (raiseError e s).altitudeIn = s.altitudeIn := rfl
@[simp] theorem raiseError_ovr (e : ErrCode) (s : State) : (raiseError e s).ovr = s.ovr := rfl
@[simp] theorem raiseError_err (e : ErrCode) (s : State) : (raiseError e s).err = e := rfl
@[simp] theorem raiseError_lastCmd (e : ErrCode) (s : State) : (raiseError e s).lastCmd = s.lastCmd := rfl
@[simp] theorem raiseError_seq (e : ErrCode) (s : State) : (raiseError e s).seq = .idle := rfl
@[simp] theorem raiseError_timer (e : ErrCode) (s : State) : (raiseError e s).timer = s.timer := rfl
@[simp] theorem raiseError_inFlight (e : ErrCode) (s : State) : (raiseError e s).inFlight = s.inFlight := rfl
@[simp] theorem raiseError_params (e : ErrCode) (s : State) : (raiseError e s).params = s.params := rfl
@[simp] theorem raiseError_agenda (e : ErrCode) (s : State) : (raiseError e s).agenda = s.agenda := rfl
@[simp] theorem raiseError_answers (e : ErrCode) (s : State) : (raiseError e s).answers = s.answers := rfl
@[simp] theorem raiseError_trace (e : ErrCode) (s : State) : (raiseError e s).trace = s.trace := rfl
@[simp] theorem raiseError_nanCount (e : ErrCode) (s : State) : (raiseError e s).nanCount = s.nanCount := rfl

@[simp] theorem finish_mode (s : State) : (finish s).mode = s.mode := rfl
@[simp] theorem finish_devAddr (s : State) : (finish s).devAddr = s.devAddr := rfl
@[simp] theorem finish_cal (s : State) : (finish s).cal = s.cal := rfl
@[simp] theorem finish_calValid (s : State) : (finish s).calValid = s.calValid := rfl
@[simp] theorem finish_stg (s : State) : (finish s).stg = s.stg := rfl
@[simp] theorem finish_rxbuf (s : State) : (finish s).rxbuf = s.rxbuf := rfl
@[simp] theorem finish_ut (s : State) : (finish s).ut = s.ut := rfl
@[simp] theorem finish_utValid (s : State) : (finish s).utValid = s.utValid := rfl
@[simp] theorem finish_up (s : State) : (finish s).up = s.up := rfl
@[simp] theorem finish_upValid (s : State) : (finish s).upValid = s.upValid := rfl
@[simp] theorem finish_b5 (s : State) : (finish s).b5 = s.b5 := rfl
@[simp] theorem finish_b5Valid (s : State) : (finish s).b5Valid = s.b5Valid := rfl
@[simp] theorem finish_t10 (s : State) : (finish s).t10 = s.t10 := rfl
@[simp] theorem finish_tempC (s : State) : (finish s).tempC = s.tempC := rfl
@[simp] theorem finish_tValid (s : State) : (finish s).tValid = s.tValid := rfl
@[simp] theorem finish_pres (s : State) : (finish s).pres = s.pres := rfl
@[simp] theorem finish_pValid (s : State) : (finish s).pValid = s.pValid := rfl
@[simp] theorem finish_altOut (s : State) : (finish s).altOut = s.altOut := rfl
@[simp] theorem finish_altValid (s : State) : (finish s).altValid = s.altValid := rfl
@[simp] theorem finish_slpOut (s : State) : (finish s).slpOut = s.slpOut := rfl
@[simp] theorem finish_slpValid (s : State) : (finish s).slpValid = s.slpValid := rfl
@[simp] theorem finish_sealevelIn (s : State) : (finish s).sealevelIn = s.sealevelIn := rfl
@[simp] theorem finish_altitudeIn (s : State) : (finish s).altitudeIn = s.altitudeIn := rfl
@[simp] theorem finish_ovr (s : State) : (finish s).ovr = s.ovr := rfl
@[simp] theorem finish_err (s : State) : (finish s).err = .none := rfl
@[simp] theorem finish_lastCmd (s : State) : (finish s).lastCmd = s.lastCmd := rfl
@[simp] theorem finish_seq (s : State) : (finish s).seq = .idle := rfl
@[simp] theorem finish_timer (s : State) : (finish s).timer = s.timer := rfl
@[simp] theorem finish_inFlight (s : State) : (finish s).inFlight = s.inFlight := rfl
@[simp] theorem finish_params (s : State) : (finish s).params = s.params := rfl
@[simp] theorem finish_agenda (s : State) : (finish s).agenda = s.agenda := rfl
@[simp] theorem finish_answers (s : State) : (finish s).answers = s.answers := rfl
@[simp] theorem finish_trace (s : State) : (finish s).trace = s.trace := rfl
@[simp] theorem finish_nanCount (s : State) : (finish s).nanCount = s.nanCount := rfl

@[simp] theorem dropWrite_mode (s : State) : (dropWrite s).mode = s.mode := rfl
@[simp] theorem dropWrite_devAddr (s : State) : (dropWrite s).devAddr = s.devAddr := rfl
@[simp] theorem dropWrite_cal (s : State) : (dropWrite s).cal = s.cal := rfl
@[simp] theorem dropWrite_calValid (s : State) : (dropWrite s).calValid = s.calValid := rfl
@[simp] theorem dropWrite_stg (s : State) : (dropWrite s).stg = s.stg := rfl
@[simp] theorem dropWrite_rxbuf (s : State) : (dropWrite s).rxbuf = s.rxbuf := rfl
@[simp] theorem dropWrite_ut (s : State) : (dropWrite s).ut = s.ut := rfl
@[simp] theorem dropWrite_utValid (s : State) : (dropWrite s).utValid = s.utValid := rfl
@[simp] theorem dropWrite_up (s : State) : (dropWrite s).up = s.up := rfl
@[simp] theorem dropWrite_upValid (s : State) : (dropWrite s).upValid = s.upValid := rfl
@[simp] theorem dropWrite_b5 (s : State) : (dropWrite s).b5 = s.b5 := rfl
@[simp] theorem dropWrite_b5Valid (s : State) : (dropWrite s).b5Valid = s.b5Valid := rfl
@[simp] theorem dropWrite_t10 (s : State) : (dropWrite s).t10 = s.t10 := rfl
@[simp] theorem dropWrite_tempC (s : State) : (dropWrite s).tempC = s.tempC := rfl
@[simp] theorem dropWrite_tValid (s : State) : (dropWrite s).tValid = s.tValid := rfl
@[simp] theorem dropWrite_pres (s : State) : (dropWrite s).pres = s.pres := rfl
@[simp] theorem dropWrite_pValid (s : State) : (dropWrite s).pValid = s.pValid := rfl
@[simp] theorem dropWrite_altOut (s : State) : (dropWrite s).altOut = s.altOut := rfl
@[simp] theorem dropWrite_altValid (s : State) : (dropWrite s).altValid = s.altValid := rfl
@[simp] theorem dropWrite_slpOut (s : State) : (dropWrite s).slpOut = s.slpOut := rfl
@[simp] theorem dropWrite_slpValid (s : State) : (dropWrite s).slpValid = s.slpValid := rfl
@[simp] theorem dropWrite_sealevelIn (s : State) : (dropWrite s).sealevelIn = s.sealevelIn := rfl
@[simp] theorem dropWrite_altitudeIn (s : State) : (dropWrite s).altitudeIn = s.altitudeIn := rfl
@[simp] theorem dropWrite_ovr (s : State) : (dropWrite s).ovr = true := rfl
@[simp] theorem dropWrite_err (s : State) : (dropWrite s).err = s.err := rfl
@[simp] theorem dropWrite_lastCmd (s : State) : (dropWrite s).lastCmd = s.lastCmd := rfl
@[simp] theorem dropWrite_seq (s : State) : (dropWrite s).seq = s.seq := rfl
@[simp] theorem dropWrite_timer (s : State) : (dropWrite s).timer = s.timer := rfl
@[simp] theorem dropWrite_inFlight (s : State) : (dropWrite s).inFlight = s.inFlight := rfl
@[simp] theorem dropWrite_params (s : State) : (dropWrite s).params = s.params := rfl
@[simp] theorem dropWrite_agenda (s : State) : (dropWrite s).agenda = s.agenda := rfl
@[simp] theorem dropWrite_answers (s : State) : (dropWrite s).answers = s.answers := rfl
@[simp] theorem dropWrite_trace (s : State) : (dropWrite s).trace = s.trace := rfl
@[simp] theorem dropWrite_nanCount (s : State) : (dropWrite s).nanCount = s.nanCount := rfl

@[simp] theorem refuseCommand_mode (c : Byte) (e : ErrCode) (s : State) : (refuseCommand c e s).mode = s.mode := rfl
@[simp] theorem refuseCommand_devAddr (c : Byte) (e : ErrCode) (s : State) : (refuseCommand c e s).devAddr = s.devAddr := rfl
@[simp] theorem refuseCommand_cal (c : Byte) (e : ErrCode) (s : State) : (refuseCommand c e s).cal = s.cal := rfl
@[simp] theorem refuseCommand_calValid (c : Byte) (e : ErrCode) (s : State) : (refuseCommand c e s).calValid = s.calValid := rfl
@[simp] theorem refuseCommand_stg (c : Byte) (e : ErrCode) (s : State) : (refuseCommand c e s).stg = s.stg := rfl
@[simp] theorem refuseCommand_rxbuf (c : Byte) (e : ErrCode) (s : State) : (refuseCommand c e s).rxbuf = s.rxbuf := rfl
@[simp] theorem refuseCommand_ut (c : Byte) (e : ErrCode) (s : State) : (refuseCommand c e s).ut = s.ut := rfl
@[simp] theorem refuseCommand_utValid (c : Byte) (e : ErrCode) (s : State) : (refuseCommand c e s).utValid = s.utValid := rfl
@[simp] theorem refuseCommand_up (c : Byte) (e : ErrCode) (s : State) : (refuseCommand c e s).up = s.up := rfl
@[simp] theorem refuseCommand_upValid (c : Byte) (e : ErrCode) (s : State) : (refuseCommand c e s).upValid = s.upValid := rfl
@[simp] theorem refuseCommand_b5 (c : Byte) (e : ErrCode) (s : State) : (refuseCommand c e s).b5 = s.b5 := rfl
@[simp] theorem refuseCommand_b5Valid (c : Byte) (e : ErrCode) (s : State) : (refuseCommand c e s).b5Valid = s.b5Valid := rfl
@[simp] theorem refuseCommand_t10 (c : Byte) (e : ErrCode) (s : State) : (refuseCommand c e s).t10 = s.t10 := rfl
@[simp] theorem refuseCommand_tempC (c : Byte) (e : ErrCode) (s : State) : (refuseCommand c e s).tempC = s.tempC := rfl
@[simp] theorem refuseCommand_tValid (c : Byte) (e : ErrCode) (s : State) : (refuseCommand c e s).tValid = s.tValid := rfl
@[simp] theorem refuseCommand_pres (c : Byte) (e : ErrCode) (s : State) : (refuseCommand c e s).pres = s.pres := rfl
@[simp] theorem refuseCommand_pValid (c : Byte) (e : ErrCode) (s : State) : (refuseCommand c e s).pValid = s.pValid := rfl
@[simp] theorem refuseCommand_altOut (c : Byte) (e : ErrCode) (s : State) : (refuseCommand c e s).altOut = s.altOut := rfl
@[simp] theorem refuseCommand_altValid (c : Byte) (e : ErrCode) (s : State) : (refuseCommand c e s).altValid = s.altValid := rfl
@[simp] theorem refuseCommand_slpOut (c : Byte) (e : ErrCode) (s : State) : (refuseCommand c e s).slpOut = s.slpOut := rfl
@[simp] theorem refuseCommand_slpValid (c : Byte) (e : ErrCode) (s : State) : (refuseCommand c e s).slpValid = s.slpValid := rfl
@[simp] theorem refuseCommand_sealevelIn (c : Byte) (e : ErrCode) (s : State) : (refuseCommand c e s).sealevelIn = s.sealevelIn := rfl
@[simp] theorem refuseCommand_altitudeIn (c : Byte) (e : ErrCode) (s : State) : (refuseCommand c e s).altitudeIn = s.altitudeIn := rfl
@[simp] theorem refuseCommand_ovr (c : Byte) (e : ErrCode) (s : State) : (refuseCommand c e s).ovr = false := rfl
@[simp] theorem refuseCommand_err (c : Byte) (e : ErrCode) (s : State) : (refuseCommand c e s).err = e := rfl
@[simp] theorem refuseCommand_lastCmd (c : Byte) (e : ErrCode) (s : State) : (refuseCommand c e s).lastCmd = c := rfl
@[simp] theorem refuseCommand_seq (c : Byte) (e : ErrCode) (s : State) : (refuseCommand c e s).seq = s.seq := rfl
@[simp] theorem refuseCommand_timer (c : Byte) (e : ErrCode) (s : State) : (refuseCommand c e s).timer = s.timer := rfl
@[simp] theorem refuseCommand_inFlight (c : Byte) (e : ErrCode) (s : State) : (refuseCommand c e s).inFlight = s.inFlight := rfl
@[simp] theorem refuseCommand_params (c : Byte) (e : ErrCode) (s : State) : (refuseCommand c e s).params = s.params := rfl
@[simp] theorem refuseCommand_agenda (c : Byte) (e : ErrCode) (s : State) : (refuseCommand c e s).agenda = s.agenda := rfl
@[simp] theorem refuseCommand_answers (c : Byte) (e : ErrCode) (s : State) : (refuseCommand c e s).answers = s.answers := rfl
@[simp] theorem refuseCommand_trace (c : Byte) (e : ErrCode) (s : State) : (refuseCommand c e s).trace = s.trace := rfl
@[simp] theorem refuseCommand_nanCount (c : Byte) (e : ErrCode) (s : State) : (refuseCommand c e s).nanCount = s.nanCount := rfl

end Sys2Proof.Laws
end

