-- ==== Sys2Proof/Laws/Engine.lean ====
section
/-! SUPPORT. What the engine and the machine's step can do, said once. -/

namespace Sys2Proof.Laws

open Sys2Proof Sys2Proof.Machine Sys2Proof.Safety

theorem busy_eq_false {s : State} (h : s.seq = .idle) : busy s = false := by simp [busy, h]

theorem busy_eq_true {s : State} (h : s.seq ≠ .idle) : busy s = true := by simp [busy, h]

theorem issueCommand_busy {s : State} (h : s.seq ≠ .idle) (i : Instr) (f : Option ErrCode) (st : State → State)
    (prog : List Slot) : issueCommand i f st prog s = dropWrite s := by
  simp [issueCommand, busy_eq_true h]

theorem issueCommand_refused {s : State} (h : s.seq = .idle) (i : Instr) (e : ErrCode) (st : State → State)
    (prog : List Slot) : issueCommand i (some e) st prog s = refuseCommand (codeOf i) e s := by
  simp [issueCommand, busy_eq_false h]

theorem issueCommand_accepted {s : State} (h : s.seq = .idle) (i : Instr) (st : State → State) (prog : List Slot) :
    issueCommand i none st prog s = acceptCommand i st prog s := by
  simp [issueCommand, busy_eq_false h]

@[simp] theorem advance_nil (cmd : Instr) (s : State) : advance cmd [] s = finish s := rfl

@[simp] theorem advance_cons (cmd : Instr) (x : Slot) (xs : List Slot) (s : State) :
    advance cmd (x :: xs) s = { s with seq := .run cmd (x :: xs) } := rfl

/-- Advancing changes SEQ, and ERR when the command ends. -/
theorem advance_cases (cmd : Instr) (rest : List Slot) (s : State) :
    (rest = [] ∧ advance cmd rest s = { s with err := .none, seq := .idle })
      ∨ (rest ≠ [] ∧ advance cmd rest s = { s with seq := .run cmd rest }) := by
  cases rest <;> simp [advance, finish]

/-- The three ways a write transaction goes (R80, R289). -/
theorem runTxWrite_cases (cmd : Instr) (reg val : Byte) (rest : List Slot) (s : State) :
    (∃ bs later, s.answers = .ok bs :: later ∧ runTxWrite cmd reg val rest s =
        advance cmd rest (record (.txWrite s.devAddr reg val true) { s with answers := later, inFlight := false }))
      ∨ (∃ later, s.answers = .fail :: later ∧ runTxWrite cmd reg val rest s =
        raiseError .transport
          (record (.txWrite s.devAddr reg val false) { s with answers := later, inFlight := false }))
      ∨ ((s.answers = [] ∨ ∃ later, s.answers = .never :: later)
        ∧ runTxWrite cmd reg val rest s = holdTransaction cmd (.txWrite reg val) rest s) := by
  unfold runTxWrite
  rcases s.answers with _ | ⟨_ | _ | _, _⟩ <;> simp

/-- The four ways a read transaction goes (R79, R289). -/
theorem runTxRead_cases (cmd : Instr) (reg : Byte) (n : Nat) (dst : Dst) (rest : List Slot) (s : State) :
    (∃ bs later, s.answers = .ok bs :: later ∧ bs.length = n ∧ runTxRead cmd reg n dst rest s =
        advance cmd rest (storeBytes dst bs
          (record (.txRead s.devAddr reg n (some bs)) { s with answers := later, inFlight := false })))
      ∨ (∃ bs later, s.answers = .ok bs :: later ∧ bs.length ≠ n ∧ runTxRead cmd reg n dst rest s =
        raiseError .transport
          (record (.txRead s.devAddr reg n (some bs)) { s with answers := later, inFlight := false }))
      ∨ (∃ later, s.answers = .fail :: later ∧ runTxRead cmd reg n dst rest s =
        raiseError .transport
          (record (.txRead s.devAddr reg n none) { s with answers := later, inFlight := false }))
      ∨ ((s.answers = [] ∨ ∃ later, s.answers = .never :: later)
        ∧ runTxRead cmd reg n dst rest s = holdTransaction cmd (.txRead reg n dst) rest s) := by
  unfold runTxRead
  rcases s.answers with _ | ⟨bs | _ | _, _⟩
  · simp
  · by_cases h : bs.length = n <;> simp [h]
  · simp
  · simp

/-- An Exec commits everything or raises (R48, R182). -/
theorem runExec_cases (cmd : Instr) (f : Prim) (rest : List Slot) (s : State) :
    (∃ s', commitPrim f s = .ok s' ∧ runExec cmd f rest s = advance cmd rest (record (.exec cmd f) s'))
      ∨ (∃ e, commitPrim f s = .error e ∧ runExec cmd f rest s = raiseError e (record (.exec cmd f) s)) := by
  unfold runExec
  cases h : commitPrim f s <;> simp

/-- The beginning of a phase: nothing, the phase's start effects, or its first failing precondition (R220). -/
theorem beginPhase_cases (b : Option Prim) (s : State) :
    (b = none ∧ beginPhase b s = .ok s)
      ∨ (∃ p, b = some p ∧ checkPrim p s = none ∧ beginPhase b s = .ok (startPrim p s))
      ∨ (∃ p e, b = some p ∧ checkPrim p s = some e ∧ beginPhase b s = .error e) := by
  cases b with
  | none => exact .inl ⟨rfl, rfl⟩
  | some p =>
    cases h : checkPrim p s with
    | none => exact .inr (.inl ⟨p, rfl, h, by simp [beginPhase, h]⟩)
    | some e => exact .inr (.inr ⟨p, e, rfl, h, by simp [beginPhase, h]⟩)

theorem engineStep_idle {s : State} (h : s.seq = .idle) : engineStep s = { s with timer := 0 } := by
  simp [engineStep, h]

theorem engineStep_run {s : State} {cmd : Instr} {slot : Slot} {rest : List Slot}
    (h : s.seq = .run cmd (slot :: rest)) : engineStep s = runSlot cmd slot rest { s with timer := 0 } := by
  simp [engineStep, h]

/-- A µop that begins no phase runs on the state as it is. -/
theorem runSlot_none (cmd : Instr) (op : UOp) (rest : List Slot) (s : State) :
    runSlot cmd ⟨none, op⟩ rest s = runOp cmd op rest s := rfl

/-- A step of a machine with an empty agenda is an engine step. -/
theorem step_of_agenda_nil {s : State} (h : s.agenda = []) : step s = .next (engineStep s) := by
  simp [step, h]

theorem step_of_agenda_cons {s : State} {x : Stimulus} {later : List Stimulus} (h : s.agenda = x :: later) :
    step s = stimulusStep x { s with agenda := later } := by
  simp [step, h]

@[simp] theorem runs_zero (s u : State) : Runs 0 s u ↔ s = u := Iff.rfl

theorem runs_succ_of_step {s t u : State} (n : Nat) (h : step s = .next t) : Runs (n + 1) s u ↔ Runs n t u := by
  simp [Runs, h]

/-- With an empty agenda a run goes on with an engine step. -/
theorem runs_engine_succ {s u : State} (n : Nat) (h : s.agenda = []) : Runs (n + 1) s u ↔ Runs n (engineStep s) u :=
  runs_succ_of_step n (step_of_agenda_nil h)

/-- exec never stops: every command answers a next state. -/
theorem exec_next (i : Instr) (s : State) : ∃ t, exec i s = .next t := by
  cases i <;> exact ⟨_, rfl⟩

end Sys2Proof.Laws
end

