-- ==== Sys2Proof/Laws/HostPort.lean ====
section
/-! SUPPORT. What a host access does, said once: which command a write issues, and the step of each access. -/

namespace Sys2Proof.Laws

open Sys2Proof Sys2Proof.Machine

/-- Every register is decoded from its own index (R112). -/
theorem decodeIndex_indexOf (r : HostReg) : decodeIndex (indexOf r) = some r := by
  rcases r with _ | _ | _ | k | _ | _ | _ | _ | _ | _ | _ | _ | _ | _ <;> first | rfl | (cases k <;> rfl)

/-- The code of a host write is bits 7:0 of its data (R73). -/
theorem codeField_eq (data : BitVec 64) : codeField data = data.extractLsb' 0 8 := by
  apply BitVec.eq_of_toNat_eq
  simp [codeField]

/-- Only a write to CMD issues a command (R73). -/
theorem commandOf_other {idx : Byte} (h : idx ≠ 0x00) (data : BitVec 64) : commandOf idx data = none := by
  unfold commandOf
  rw [if_neg]
  exact h

/-- A write to CMD whose low byte is no code issues none (R102). -/
theorem commandOf_illegal {data : BitVec 64} {e : DecodeError} (h : decodeCode (codeField data) = .error e) :
    commandOf (indexOf .cmd) data = none := by
  simp [commandOf, decode, h]

/-- A write to CMD whose low byte is a code issues its command (R101). -/
theorem commandOf_legal {data : BitVec 64} {i : Instr} (h : decodeCode (codeField data) = .ok i) :
    commandOf (indexOf .cmd) data = some i := by
  simp [commandOf, decode, h]

/-- The step of a host write that issues a command: its meaning, and the event of the access (R94). -/
theorem step_issue {s t : State} {idx : Byte} {data : BitVec 64} {later : List Stimulus} {i : Instr}
    (ha : s.agenda = .hostWrite idx data :: later) (hc : commandOf idx data = some i)
    (ht : exec i { s with agenda := later } = .next t) : step s = .next (record (.hostWrite idx data .ok) t) := by
  rw [step_of_agenda_cons ha]
  unfold stimulusStep
  simp only [hc, ht, recordIssue]

/-- The step of every other host write. -/
theorem step_hostWrite_other {s : State} {idx : Byte} {data : BitVec 64} {later : List Stimulus}
    (ha : s.agenda = .hostWrite idx data :: later) (hc : commandOf idx data = none) :
    step s = .next (hostWriteOther idx data { s with agenda := later }) := by
  rw [step_of_agenda_cons ha]
  unfold stimulusStep
  simp only [hc]

/-- What a write that issues no command leaves: nothing but OVR, LAST_CMD, ERR and the two operand registers
can differ (R51, R73 to R75, R102). -/
theorem writeOther_frame (idx : Byte) (data : BitVec 64) (s : State) :
    ∃ ovr err lastCmd sealevelIn altitudeIn, (writeOther idx data s).2 =
      { s with ovr := ovr, err := err, lastCmd := lastCmd, sealevelIn := sealevelIn, altitudeIn := altitudeIn } := by
  unfold writeOther
  split <;> try exact ⟨s.ovr, s.err, s.lastCmd, s.sealevelIn, s.altitudeIn, rfl⟩
  · unfold issueIllegal
    split
    · exact ⟨true, s.err, s.lastCmd, s.sealevelIn, s.altitudeIn, rfl⟩
    · exact ⟨false, .illegal, codeField data, s.sealevelIn, s.altitudeIn, rfl⟩
  · by_cases h : busy s = true
    · exact ⟨true, s.err, s.lastCmd, s.sealevelIn, s.altitudeIn, by simp [h, dropWrite]⟩
    · exact ⟨s.ovr, s.err, s.lastCmd, data, s.altitudeIn, by simp [h]⟩
  · by_cases h : busy s = true
    · exact ⟨true, s.err, s.lastCmd, s.sealevelIn, s.altitudeIn, by simp [h, dropWrite]⟩
    · exact ⟨s.ovr, s.err, s.lastCmd, s.sealevelIn, data, by simp [h]⟩

/-- A host read changes the record and nothing else (R71). -/
theorem hostRead_frame (idx : Byte) (s : State) :
    ∃ e, hostRead idx s = { s with trace := s.trace ++ [e] } := ⟨_, rfl⟩

end Sys2Proof.Laws
end

