-- ==== Sys2Proof/Laws/Operands.lean ====
section
/-! SUPPORT. What the operand forms read: big-endian bytes, the mode's table entry, the conversion byte. -/

namespace Sys2Proof.Laws

open Sys2Proof Sys2Proof.Machine

/-- The big-endian pattern of two bytes is their concatenation (R79, R81). -/
theorem be16_pair (b0 b1 : Byte) : BitVec.ofNat 16 (be16 [b0, b1]) = b0 ++ b1 := by
  apply BitVec.eq_of_toNat_eq
  have := b0.isLt
  have := b1.isLt
  rw [BitVec.toNat_append, ← Nat.shiftLeft_add_eq_or_of_lt (by omega), Nat.shiftLeft_eq]
  simp [be16, byteAt]
  omega

/-- The big-endian value of three bytes is that of their concatenation (R79, R81). -/
theorem be24_triple (b0 b1 b2 : Byte) : be24 [b0, b1, b2] = (b0 ++ b1 ++ b2 : BitVec 24).toNat := by
  have := b0.isLt
  have := b1.isLt
  have := b2.isLt
  rw [BitVec.toNat_append, BitVec.toNat_append, ← Nat.shiftLeft_add_eq_or_of_lt (by omega),
    ← Nat.shiftLeft_add_eq_or_of_lt (by omega), Nat.shiftLeft_eq, Nat.shiftLeft_eq]
  simp [be24, byteAt]
  omega

/-- Any three bytes are below 2^24. -/
theorem be24_lt (bs : List Byte) : be24 bs < 2 ^ 24 := by
  unfold be24 byteAt
  have := (bs.getD 0 (Config.freeByte 0)).isLt
  have := (bs.getD 1 (Config.freeByte 1)).isLt
  have := (bs.getD 2 (Config.freeByte 2)).isLt
  omega

/-- The four values of MODE (R31). -/
theorem mode_cases (mode : BitVec 2) : mode = 0 ∨ mode = 1 ∨ mode = 2 ∨ mode = 3 := by
  revert mode; decide

/-- The raw pressure of a mode has 16 + MODE bits (R39, R156). -/
theorem rawPressure_lt (mode : BitVec 2) (bs : List Byte) : rawPressure mode bs < 2 ^ (16 + mode.toNat) := by
  have h := be24_lt bs
  unfold rawPressure
  rw [Nat.shiftRight_eq_div_pow, Nat.div_lt_iff_lt_mul (by positivity), ← Nat.pow_add]
  have : 16 + mode.toNat + (8 - mode.toNat) = 24 := by have := mode.isLt; omega
  rwa [this]

/-- The conversion byte has MODE ORed into bits 7:6 (R107). -/
theorem presByte_eq (p : Params) (mode : BitVec 2) : presByte p mode = p.cmdPres ||| (mode ++ (0 : BitVec 6)) := by
  unfold presByte
  apply BitVec.eq_of_toNat_eq
  have h : ∀ (c : Byte) (m : BitVec 2),
      (BitVec.ofNat 8 (c.toNat ||| m.toNat <<< 6)).toNat = (c ||| (m ++ (0 : BitVec 6)) : Byte).toNat := by
    decide +kernel
  exact h _ _

/-- The table entry of each mode (R31). -/
theorem modeGet_eq {α : Type} (t : ModeTable α) (mode : BitVec 2) :
    modeGet t mode = if mode = 0 then t.ultraLowPower else if mode = 1 then t.standard
      else if mode = 2 then t.highRes else t.ultraHighRes := by
  rcases mode_cases mode with rfl | rfl | rfl | rfl <;> rfl

end Sys2Proof.Laws
end

