-- ==== Sys2Proof/Laws/PerInstr.lean ====
section
/-! SUPPORT. Statements made once per command: the family RoundTrip, that a command decodes from its own
encoding, whatever bytes follow (R100, R101). -/

namespace Sys2Proof.Laws.RoundTrip

/-- The command's own code decodes to it and leaves the rest alone. -/
def Statement (i : Instr) : Prop :=
  i.wf = true ∧ (encode i).length = 1 ∧ ∀ rest : List Byte, decode (encode i ++ rest) = .ok (i, rest)

theorem loadCal : Statement .loadCal := ⟨rfl, rfl, fun _ => rfl⟩

theorem sampleT : Statement .sampleT := ⟨rfl, rfl, fun _ => rfl⟩

theorem sampleP : Statement .sampleP := ⟨rfl, rfl, fun _ => rfl⟩

theorem compT : Statement .compT := ⟨rfl, rfl, fun _ => rfl⟩

theorem compP : Statement .compP := ⟨rfl, rfl, fun _ => rfl⟩

theorem alt : Statement .alt := ⟨rfl, rfl, fun _ => rfl⟩

theorem slp : Statement .slp := ⟨rfl, rfl, fun _ => rfl⟩

theorem readTemperature : Statement .readTemperature := ⟨rfl, rfl, fun _ => rfl⟩

theorem readPressure : Statement .readPressure := ⟨rfl, rfl, fun _ => rfl⟩

theorem readAltitude : Statement .readAltitude := ⟨rfl, rfl, fun _ => rfl⟩

theorem readSealevel : Statement .readSealevel := ⟨rfl, rfl, fun _ => rfl⟩

end Sys2Proof.Laws.RoundTrip
end

