-- ==== Sys2Proof/Tests/Slice0.lean ====
section
/-! SUPPORT. Our own tests: ill-formed terms refused, codes and vectors of the spec, and for each obligation
with hypotheses a concrete state that meets them (names ending in `_meets`). Expected values are those of
95_test_vectors.md unless a comment says otherwise. -/

namespace Sys2Proof.Tests

open Sys2Proof Sys2Proof.Machine Sys2Proof.Safety Sys2Proof.Spec

/-! ### Well-formedness: each check refuses an ill-formed term -/

theorem test_wf_refuses_3_bytes_to_staging : (UOp.txRead 0xAA 3 (.stg .ac1)).wf = false := by decide

theorem test_wf_refuses_1_byte_read : (UOp.txRead 0xF6 1 .rxbuf).wf = false := by decide

theorem test_wf_refuses_ultra_low_power_longest :
    ({ Params.default with tSettleP := ⟨25501, 7500, 13500, 25500⟩ } : Params).wf = false := by decide

theorem test_wf_refuses_standard_longest :
    ({ Params.default with tSettleP := ⟨4500, 25501, 13500, 25500⟩ } : Params).wf = false := by decide

theorem test_wf_refuses_high_res_longest :
    ({ Params.default with tSettleP := ⟨4500, 7500, 25501, 25500⟩ } : Params).wf = false := by decide

theorem test_wf_accepts_defaults : Params.default.wf = true := by decide

theorem test_wf_every_issued_uop :
    (uopsLoadCal Params.default ++ uopsSampleT Params.default ++ uopsSampleP Params.default 3).all UOp.wf = true := by
  decide

/-! ### Decoding: the code byte of each command, bit by bit (R101) -/

theorem test_decode_load_cal : decodeTableWord 8 0b00000001 = some .loadCal := by decide

theorem test_decode_sample_t : decodeTableWord 8 0b00000010 = some .sampleT := by decide

theorem test_decode_sample_p : decodeTableWord 8 0b00000011 = some .sampleP := by decide

theorem test_decode_comp_t : decodeTableWord 8 0b00000100 = some .compT := by decide

theorem test_decode_comp_p : decodeTableWord 8 0b00000101 = some .compP := by decide

theorem test_decode_alt : decodeTableWord 8 0b00000110 = some .alt := by decide

theorem test_decode_slp : decodeTableWord 8 0b00000111 = some .slp := by decide

theorem test_decode_read_temperature : decodeTableWord 8 0b00001000 = some .readTemperature := by decide

theorem test_decode_read_pressure : decodeTableWord 8 0b00001001 = some .readPressure := by decide

theorem test_decode_read_altitude : decodeTableWord 8 0b00001010 = some .readAltitude := by decide

theorem test_decode_read_sealevel : decodeTableWord 8 0b00001011 = some .readSealevel := by decide

theorem test_decode_refuses_illegal :
    decodeTableWord 8 0b00000000 = none ∧ decodeTableWord 8 0b00001100 = none ∧ decodeTableWord 8 0b11111111 = none := by
  decide

theorem test_decode_no_code : decode [] = .error .noCode := by decide

/-- V-E9: bits 63:8 of a write to CMD are ignored. -/
theorem test_cmd_ignores_high_bits : commandOf 0x00 0x0000000000000109 = some .readPressure := by decide

/-- The gaps of the map of R112 at their ends. -/
theorem test_index_gaps :
    ([0x03, 0x0F, 0x1B, 0x1F, 0x23, 0x2F, 0x35, 0x3F, 0x42, 0xFF] : List Byte).map decodeIndex
      = List.replicate 10 none := by decide

/-- R105, R106: the accesses of a line. -/
theorem test_expand_run : expandProgram [.run .readPressure, .check, .wr .altitudeIn 5]
    = [.hostWrite 0x00 0x09, .poll, .hostRead 0x01, .hostWrite 0x41 5] := by decide

/-! ### Small states -/

/-- The calibration of the worked example E1, as patterns (V-L1). -/
def exampleCal : CalTable Half :=
  ⟨0x0198, 0xFFB8, 0xC7D1, 0x7FE5, 0x7FF5, 0x5A71, 0x182E, 0x0004, 0x8000, 0xDDF9, 0x0B34⟩

/-- The calibration bytes of V-L1. -/
def exampleBytes : CalBytes :=
  ⟨(0x01, 0x98), (0xFF, 0xB8), (0xC7, 0xD1), (0x7F, 0xE5), (0x7F, 0xF5), (0x5A, 0x71), (0x18, 0x2E), (0x00, 0x04),
    (0x80, 0x00), (0xDD, 0xF9), (0x0B, 0x34)⟩

/-- Reset with nothing scheduled but the given stimuli and answers. -/
def fresh (agenda : List Stimulus) (answers : List Answer) : State :=
  { State.reset with agenda := agenda, answers := answers }

/-- After a successful LOAD_CAL of V-L1. -/
def ready (agenda : List Stimulus) (answers : List Answer) : State :=
  { fresh agenda answers with cal := exampleCal, calValid := true }

/-- A ready state that runs a command at the given tail of its list. -/
def midRun (cmd : Instr) (dropped : Nat) (agenda : List Stimulus) (answers : List Answer) : State :=
  { ready agenda answers with
    seq := .run cmd ((programOf cmd Params.default 0).drop dropped), lastCmd := codeOf cmd }

/-- The state one step leads to. -/
def after (s : State) : State :=
  match step s with
  | .next t => t
  | .fault _ => s
  | .refused _ => s

/-- A pressure of 69964 Pa is held. -/
def withPressure (agenda : List Stimulus) : State := { ready agenda [] with pres := 69964, pValid := true }

/-! ### Registers, formats and status -/

/-- V-E1, and R113's example. -/
theorem test_reset_status_and_cfg :
    statusWord State.reset = 0 ∧ cfgWord (State.resetWith 1 0x77 Params.default) = 0x7701 := by decide

/-- V-E1: every readable register but CFG and SEALEVEL_IN reads 0 after reset. -/
theorem test_reset_reads :
    ([0x01, 0x10, 0x1A, 0x20, 0x21, 0x22, 0x30, 0x31, 0x32, 0x33, 0x34, 0x41] : List Byte).map
        (fun idx => readAnswer idx State.reset) = List.replicate 12 (.ok, 0)
      ∧ readAnswer 0x40 State.reset = (.ok, 0x40F8BCD000000000) := by decide

/-- R72's example: B5 = -1 reads as 0x00000000FFFFFFFF. -/
theorem test_read_signed_zero_extends :
    readAnswer 0x22 { State.reset with b5 := BitVec.ofInt 32 (-1) } = (.ok, 0x00000000FFFFFFFF) := by decide

/-- V-E6, V-E8: CMD and an unmapped index. -/
theorem test_read_decerr :
    readAnswer 0x00 State.reset = (.decerr, 0) ∧ readAnswer 0x03 State.reset = (.decerr, 0) := by decide

/-- V-E7: a write to STATUS answers DECERR and leaves the registers alone. -/
theorem test_write_status_decerr :
    (after (fresh [.hostWrite 0x01 0] [])).trace = [.hostWrite 0x01 0 .decerr]
      ∧ statusWord (after (fresh [.hostWrite 0x01 0] [])) = 0 := by decide

/-- V-E2, V-E4: an illegal code, and SAMPLE_T before LOAD_CAL. -/
theorem test_refusals_after_reset :
    statusWord (after (fresh [.hostWrite 0x00 0x00] [])) = 0x00000080
      ∧ statusWord (after (fresh [.hostWrite 0x00 0x02] [])) = 0x00020050 := by decide

/-- V-L5: a second LOAD_CAL. V-R7: READ_PRESSURE before LOAD_CAL. -/
theorem test_refused_reload_and_nocal :
    statusWord (after (ready [.hostWrite 0x00 0x01] [])) = 0x00010160
      ∧ statusWord (after (fresh [.hostWrite 0x00 0x09] [])) = 0x00090050 := by decide

/-- V-C1: COMP_T without a sample. -/
theorem test_comp_t_nodata : statusWord (after (ready [.hostWrite 0x00 0x04] [])) = 0x00040170 := by decide

/-- V-E5: a command written while a command runs is dropped and sets OVR. -/
theorem test_write_while_busy :
    statusWord (after (midRun .readTemperature 1 [.hostWrite 0x00 0x09] [])) = 0x00080103 := by decide

/-- V-S2: the conversion byte of each mode (R107). -/
theorem test_conversion_bytes :
    ([0, 1, 2, 3] : List (BitVec 2)).map (presByte Params.default) = [0x34, 0x74, 0xB4, 0xF4] := by decide

/-- V-S3: the raw pressure of each mode. -/
theorem test_raw_pressure :
    ([0, 1, 2, 3] : List (BitVec 2)).map (fun m => rawPressure m [0x2E, 0x91, 0x80]) = [11921, 23843, 47686, 95372]
      ∧ ([0, 1, 2, 3] : List (BitVec 2)).map (fun m => rawPressure m [0x00, 0x00, 0xFF]) = [0, 1, 3, 7] := by decide

/-- V-S1: the raw temperature of bytes 0x80 0x00 is -32768. -/
theorem test_raw_temperature :
    (BitVec.ofNat 16 (be16 [0x80, 0x00])).toInt = -32768 ∧ (BitVec.ofNat 16 (be16 [0x6C, 0xFA])).toInt = 27898 := by
  decide

/-- R110's example: the same bytes signed and unsigned. -/
theorem test_calibration_sign :
    calValue { calZero with ac3 := 0xC7D1, ac4 := 0xC7D1 } .ac3 = -14383
      ∧ calValue { calZero with ac3 := 0xC7D1, ac4 := 0xC7D1 } .ac4 = 51153 := by decide

/-! ### The pipelines -/

/-- V-T1, V-T4, V-T2. -/
theorem test_compT_values :
    compT 27898 32757 23153 (-8711) 2868 = .ok (2400, 150) ∧ compT 23153 32757 23153 (-8711) 2868 = .ok (-6220, -389)
      ∧ compT (-32768) 32757 23153 (-8711) 2868 = .ok (-55567, -3473) := by decide

/-- V-T6, V-T7, V-T8. -/
theorem test_compT_faults :
    compT 23153 32757 23153 0 0 = .error ⟨.div0T, .t2⟩ ∧ compT 23155 32757 23153 0 0 = .ok (1, 0)
      ∧ compT (-32768) 65535 65535 (-8711) 2868 = .error ⟨.range, .t1b⟩ := by decide

/-- V-P1 to V-P4 and V-P16. -/
theorem test_compP_values :
    ([0, 1, 2, 3] : List Nat).map (fun m => compP 2400 23843 m 408 (-72) (-14383) 32741 6190 4)
        = [.ok 69964, .ok 34416, .ok 16686, .ok 7831]
      ∧ compP 2400 23843 0 (-1000) (-72) (-14383) 32741 6190 4 = .ok 74166 := by decide

/-- V-P14, V-P15, V-P17 to V-P21, V-P24. -/
theorem test_compP_faults :
    examplePressure 72454 = .error ⟨.range, .p12b⟩ ∧ examplePressure 90000 = .error ⟨.range, .p10b⟩
      ∧ compP 2400 23843 0 408 (-72) (-14383) 0 6190 4 = .error ⟨.div0P, .p11⟩
      ∧ compP 2400 23843 0 408 (-72) (-14383) 1 6190 4 = .error ⟨.range, .p11b⟩
      ∧ compP 2400 23843 0 408 (-72) (-14383) 2 6190 4 = .error ⟨.range, .p12a⟩
      ∧ compP 50340 23843 0 408 (-72) (-32768) 32741 0 4 = .error ⟨.range, .p9a⟩
      ∧ compP 50340 23843 0 408 (-72) (-14383) 65535 6190 4 = .error ⟨.range, .p7⟩
      ∧ compP (-55567) 23843 0 408 (-72) (-14383) 32741 6190 4 = .error ⟨.range, .p2a⟩ := by decide

/-- V-B. -/
theorem test_step11 :
    step11 0x7FFFFFFF 65535 = .ok 65536 ∧ step11 0x80000000 65535 = .ok 65536 ∧ step11 0xFFFFFFFF 33457 = .ok 256744
      ∧ step11 0x7FFFFFFF 1 = .error ⟨.range, .p11b⟩ ∧ step11 0x80000000 1 = .error ⟨.range, .p11c⟩
      ∧ step11 5 0 = .error ⟨.div0P, .p11⟩ := by decide

/-! ### Binary64 -/

/-- V-T2, V-T3, V-T5: TEMP_C. -/
theorem test_tempC :
    tempCOf (-3473) = 0xC075B4CCCCCCCCCD ∧ tempCOf 511 = 0x40498CCCCCCCCCCD ∧ tempCOf (-1392) = 0xC061666666666666 := by
  decide +kernel

/-- R202: the exponent E. -/
theorem test_exponent : expAlt = 0x3FC85B95CCD9456C := by decide +kernel

/-- R206's example: f64(69964), and R45's 101325.0. -/
theorem test_f64_of_int : f64OfInt 69964 = 0x40F114C000000000 ∧ f64OfInt 101325 = Config.sealevelReset := by
  decide +kernel

/-- Halfway between 2^53 and 2^53 + 2 rounds to the even neighbour, and between 2^53 + 2 and 2^53 + 4 up
(IEEE 754 ties to even; hand calculation). -/
theorem test_ties_to_even :
    f64OfInt 9007199254740993 = 0x4340000000000000 ∧ f64OfInt 9007199254740995 = 0x4340000000000002 := by
  decide +kernel

/-- R207 and I2 at the least negative sea-level pressure, where p / s overflows: NaN (log 10). -/
theorem test_altitude_tiny_negative : f64IsNaN (altitude 0 69964 0x8000000000000001) = true :=
  Laws.isNaN_altitude (by
    rw [Laws.ratioPower_eq_nan ⟨by decide, by decide, by decide +kernel⟩]; exact Laws.isNaN_freshNaN 0)

/-! ### Hypotheses met -/

theorem step_runs_decoded_meets :
    (fresh [.hostWrite 0x00 0x01] []).agenda = [.hostWrite 0x00 0x01]
      ∧ decode [(0x01 : BitVec 64).extractLsb' 0 8] = .ok (.loadCal, []) ∧ Instr.loadCal.wf = true := by decide

/-- IdleCommandIsRefusedOrAccepted, in both of its cases. -/
theorem idle_command_meets :
    (ready [] []).seq = .idle ∧ refusal .loadCal (ready [] []) = some .reload
      ∧ refusal .readPressure (ready [] []) = none := by decide

/-- Illegal codes at the ends of their range. -/
theorem illegal_code_meets :
    (fresh [.hostWrite 0x00 0x0C] []).seq = .idle
      ∧ ([0x00, 0x0C, 0xFF] : List (BitVec 64)).all (fun d => decide ((d.extractLsb' 0 8).toNat = 0
          ∨ 12 ≤ (d.extractLsb' 0 8).toNat)) = true := by decide

theorem write_while_busy_meets :
    ([0x00, 0x40, 0x41] : List Byte).all (fun idx =>
      decide ((midRun .readTemperature 1 [.hostWrite idx 9] []).seq ≠ .idle)) = true := by decide

theorem idle_operand_write_meets :
    (fresh [.hostWrite 0x40 7] []).seq = .idle ∧ (fresh [.hostWrite 0x41 7] []).agenda = [.hostWrite 0x41 7] := by
  decide

/-- DecodeErrorsChangeNothing: the unmapped ranges at their ends, none of them a writable index, and a read-only
index. -/
theorem decode_errors_meets :
    (unmapped 0x03 ∧ unmapped 0x0F ∧ unmapped 0x1B ∧ unmapped 0x1F ∧ unmapped 0x23 ∧ unmapped 0x2F ∧ unmapped 0x35
        ∧ unmapped 0x3F ∧ unmapped 0x42 ∧ unmapped 0xFF)
      ∧ ([0x03, 0x42, 0xFF, 0x01] : List Byte).all (fun i => i != 0x00 && i != 0x40 && i != 0x41) = true
      ∧ (fresh [.hostRead 0x00] []).agenda = [.hostRead 0x00] := by
  refine ⟨?_, by decide, rfl⟩
  simp [unmapped]

/-- HostReadReturnsTheWholePattern at the ends of the map. -/
theorem host_read_meets :
    ((0x01, .status) ∈ registerMap ∧ HostReg.status ≠ .cmd) ∧ ((0x41, .altitudeIn) ∈ registerMap
      ∧ HostReg.altitudeIn ≠ .cmd) ∧ (fresh [.hostRead 0x41] []).agenda = [.hostRead 0x41] := by decide

theorem load_cal_meets :
    let s := fresh [] (pairAnswers (pairs exampleBytes))
    Quiet s ∧ s.calValid = false ∧ s.answers = pairAnswers (pairs exampleBytes) ++ []
      ∧ patterns exampleBytes = exampleCal := ⟨⟨rfl, rfl⟩, rfl, by decide, by decide⟩

/-- LoadCalIsAllOrNothing at its first and last read: V-L3's failure and V-L4's short answer. -/
theorem load_cal_failure_meets :
    let s := fresh [] [.fail]
    let s' := fresh [] (pairAnswers ((pairs exampleBytes).take 10) ++ [.ok [0x0B]])
    Quiet s ∧ s.calValid = false ∧ ([] : List (Byte × Byte)).length < 11 ∧ s.answers = pairAnswers [] ++ [.fail]
      ∧ Quiet s' ∧ s'.calValid = false ∧ ((pairs exampleBytes).take 10).length < 11
      ∧ ([0x0B] : List Byte).length ≠ 2
      ∧ s'.answers = pairAnswers ((pairs exampleBytes).take 10) ++ [.ok [0x0B]] :=
  ⟨⟨rfl, rfl⟩, rfl, by decide, rfl, ⟨rfl, rfl⟩, rfl, by decide, by decide, rfl⟩

theorem sample_t_meets :
    let s := ready [] [.ok [], .ok [0x6C, 0xFA]]
    Quiet s ∧ s.calValid = true ∧ s.answers = [.ok [], .ok [0x6C, 0xFA]] := ⟨⟨rfl, rfl⟩, rfl, rfl⟩

theorem sample_p_meets :
    let s := ready [] [.ok [], .ok [0x5D, 0x23, 0x00]]
    Quiet s ∧ s.calValid = true ∧ s.answers = [.ok [], .ok [0x5D, 0x23, 0x00]] := ⟨⟨rfl, rfl⟩, rfl, rfl⟩

/-- The failed samples: a failed write, a failed read, and answers one byte short and one byte long. -/
theorem failed_sample_meets :
    Quiet (ready [] [.fail]) ∧ (ready [] [.fail]).calValid = true ∧ (ready [] [.fail]).answers = [.fail]
      ∧ Quiet (ready [] [.ok [], .fail]) ∧ (ready [] [.ok [], .fail]).calValid = true
      ∧ (ready [] [.ok [], .fail]).answers = [.ok [], .fail]
      ∧ ([1] : List Byte).length ≠ 2 ∧ ([1, 2, 3] : List Byte).length ≠ 2
      ∧ ([1, 2] : List Byte).length ≠ 3 ∧ ([1, 2, 3, 4] : List Byte).length ≠ 3 :=
  ⟨⟨rfl, rfl⟩, rfl, rfl, ⟨rfl, rfl⟩, rfl, rfl, by decide, by decide, by decide, by decide⟩

/-- CompTConsumesTheSample: a pipeline that returns (V-T1) and one that raises (V-T6). -/
theorem comp_t_meets :
    let s : State := { ready [] [] with ut := 27898, utValid := true }
    let s' : State := { s with ut := 23153, cal := { exampleCal with mc := 0, md := 0 } }
    Quiet s ∧ s.calValid = true ∧ s.utValid = true ∧ temperature s.cal s.ut = .ok (2400, 150)
      ∧ Quiet s' ∧ s'.calValid = true ∧ s'.utValid = true ∧ temperature s'.cal s'.ut = .error ⟨.div0T, .t2⟩ :=
  ⟨⟨rfl, rfl⟩, rfl, rfl, by decide +kernel, ⟨rfl, rfl⟩, rfl, rfl, by decide +kernel⟩

/-- CompPConsumesSampleAndB5: a pipeline that returns (V-P1) and one that raises (V-P9). -/
theorem comp_p_meets :
    let s : State := { ready [] [] with up := 23843, upValid := true, b5 := 2400, b5Valid := true }
    let s' : State := { s with up := 421 }
    Quiet s ∧ s.calValid = true ∧ s.upValid = true ∧ s.b5Valid = true
      ∧ pressure s.cal s.mode s.b5.toInt s.up = .ok 69964
      ∧ Quiet s' ∧ s'.calValid = true ∧ s'.upValid = true ∧ s'.b5Valid = true
      ∧ pressure s'.cal s'.mode s'.b5.toInt s'.up = .error ⟨.range, .p10a⟩ :=
  ⟨⟨rfl, rfl⟩, rfl, rfl, rfl, by decide +kernel, ⟨rfl, rfl⟩, rfl, rfl, rfl, by decide +kernel⟩

/-- CompPFollowsTheFourteenSteps at its first and last mode (V-P1, V-P4). -/
theorem comp_p_formula_meets :
    (0 ≤ 3 ∧ compP 2400 23843 0 408 (-72) (-14383) 32741 6190 4 = .ok 69964)
      ∧ (3 ≤ 3 ∧ compP 2400 23843 3 408 (-72) (-14383) 32741 6190 4 = .ok 7831) := by decide

/-- CompPFaultsInStepOrder: the steps before P9 pass for the worked example (the last clause, both ways: AC4 =
32741 and AC4 = 0; the clause of P10a at UP = 421; the clause of P10b from UP - B3 = 85900 on), for V-P20 (P9a),
for a large X3 (P9b), and for B3 = -1 (P10a at UP = 2^32 - 1). -/
theorem comp_p_order_meets :
    compPStage1 2400 408 (-72) 4 0 = .ok (-1600, 625, 422)
      ∧ (-14383 * -1600 : Int) ≤ 2147483647 ∧ (6190 * 625 : Int) ≤ 2147483647
      ∧ (85899 * (50000 / 2 ^ 0) : Int) ≤ 4294967295 ∧ (4294967295 : Int) < 85900 * (50000 / 2 ^ 0)
      ∧ compPStage1 50340 408 (-72) 4 0 = .ok (46340, 524266, 256)
      ∧ ((-32768 * 46340 / 8192 + 0 * 524266 / 65536 + 2) / 4 + 32768 : Int) < 0
      ∧ compPStage1 (-42340) 0 0 0 0 = .ok (-46340, 524266, 0)
      ∧ (4294967295 : Int) < 65535 * ((-32768 * -46340 / 8192 + 0 * 524266 / 65536 + 2) / 4 + 32768)
      ∧ compPStage1 4000 (-2) 0 0 0 = .ok (0, 0, -1) ∧ (4294967295 : Int) < 4294967295 - -1 := by decide

theorem step11_meets :
    ((3 : Int) ≤ 3 ∧ (3 : Int) ≤ 4294967295) ∧ ((3 : Int) ≤ 4294967295 ∧ (4294967295 : Int) ≤ 4294967295)
      ∧ step11 0xFFFFFFFF 33457 = .ok 256744
      ∧ ((1073741824 : Int) ≤ 1073741824 ∧ (1073741824 : Int) < 0x80000000)
      ∧ ((0x80000000 : Int) ≤ 4294967295) := by decide

/-- ExamplePressureIsMonotone at the ends of its interval (V-P8, V-P13, V-P9). -/
theorem monotone_meets :
    examplePressure 422 = .ok 236 ∧ examplePressure 72453 = .ok 216064 ∧ examplePressure 421 = .error ⟨.range, .p10a⟩ := by
  decide

/-- ArithmeticRoundsToNearestEven: the largest finite value (whose sum with itself would overflow) plus 0, and 1.0
divided by 10.0. -/
theorem arithmetic_meets :
    f64IsFinite 0x7FEFFFFFFFFFFFFF = true ∧ f64IsFinite 0x0000000000000000 = true
      ∧ (f64Units 0x7FEFFFFFFFFFFFFF + f64Units 0x0000000000000000).natAbs < overflowUnits
      ∧ (f64Units 0x7FEFFFFFFFFFFFFF - f64Units 0x0000000000000000).natAbs < overflowUnits
      ∧ (f64Units f64One * f64Units f64Ten).natAbs < 2 ^ 1074 * overflowUnits ∧ f64Units f64Ten ≠ 0
      ∧ (f64Units f64One).natAbs * 2 ^ 1074 < (f64Units f64Ten).natAbs * overflowUnits := by decide +kernel

theorem integers_meets : (9007199254740991 : Int).natAbs < 2 ^ 53 ∧ (-9007199254740991 : Int).natAbs < 2 ^ 53 := by
  decide

/-- PowHasItsRequiredProperties: arguments for each clause: -1.0 with 5.255, +0.0 and +inf with 5.255, a NaN base, and
0.5 with -1.0. -/
theorem pow_meets :
    (f64IsFinite 0xBFF0000000000000 = true ∧ f64IsNegative 0xBFF0000000000000 = true
        ∧ f64IsInteger Config.expSl = false)
      ∧ (f64IsZero 0x8000000000000000 = true ∧ f64IsFinite Config.expSl = true ∧ f64IsPositive Config.expSl = true
        ∧ f64IsOddInteger Config.expSl = false)
      ∧ (f64IsInf 0xFFF0000000000000 = true ∧ f64IsPositive 0x4000000000000000 = true
        ∧ f64IsOddInteger 0x4000000000000000 = false)
      ∧ (f64IsNaN 0x7FF8000000000000 = true ∧ (0x7FF8000000000000 : F64) ≠ f64One ∧ f64IsZero Config.expSl = false)
      ∧ (f64IsFinite 0x3FE0000000000000 = true ∧ f64IsPositive 0x3FE0000000000000 = true
        ∧ f64IsFinite 0xBFF0000000000000 = true) := by decide +kernel

/-- AltitudeSpecialValues: the ends of the pressure's range, a NaN and a negative sea-level pressure. -/
theorem altitude_meets :
    (0 < (1 : Int) ∧ (1 : Int) ≤ 2147483647) ∧ (0 < (2147483647 : Int) ∧ (2147483647 : Int) ≤ 2147483647)
      ∧ f64IsNaN 0x7FF8000000000000 = true
      ∧ (f64IsFinite 0xC0F8BCD000000000 = true ∧ f64IsNegative 0xC0F8BCD000000000 = true)
      ∧ (f64IsFinite 0x8000000000000001 = true ∧ f64IsNegative 0x8000000000000001 = true) := by decide +kernel

/-- SeaLevelSpecialValues: the first altitude above 44330.0, and a NaN. -/
theorem sea_level_meets :
    f64IsFinite 0x40E5A54000000001 = true ∧ f64Units Config.kSl < f64Units 0x40E5A54000000001
      ∧ f64IsNaN 0xFFF8000000000001 = true := by decide +kernel

theorem alt_slp_meets :
    Quiet (withPressure []) ∧ (withPressure []).calValid = true ∧ (withPressure []).pValid = true :=
  ⟨⟨rfl, rfl⟩, rfl, rfl⟩

/-- The public commands: V-R1 to V-R4. -/
theorem read_commands_meets :
    let s := ready [] [.ok [], .ok [0x6C, 0xFA], .ok [], .ok [0x5D, 0x23, 0x00]]
    Quiet s ∧ s.calValid = true ∧ s.answers = [.ok [], .ok [0x6C, 0xFA], .ok [], .ok [0x5D, 0x23, 0x00]]
      ∧ temperature s.cal ((0x6C : Byte) ++ (0xFA : Byte)) = .ok (2400, 150)
      ∧ pressure s.cal s.mode 2400 (upOf s.mode ((0x5D : Byte) ++ (0x23 : Byte) ++ (0x00 : Byte))) = .ok 69964 :=
  ⟨⟨rfl, rfl⟩, rfl, rfl, by decide +kernel, by decide +kernel⟩

/-- FailedTemperatureSampleEndsAPublicCommand: a failed write, a failed read, and an answer one byte short. -/
theorem failed_public_sample_meets :
    isPublic .readTemperature ∧ isPublic .readSealevel ∧ Quiet (ready [] [.fail])
      ∧ (ready [] [.fail]).calValid = true ∧ (ready [] [.fail]).answers = [.fail] ∧ badAnswer 2 .fail
      ∧ badAnswer 2 (.ok [0x6C]) ∧ Quiet (ready [] [.ok [], .ok [0x6C]])
      ∧ (ready [] [.ok [], .ok [0x6C]]).calValid = true
      ∧ (ready [] [.ok [], .ok [0x6C]]).answers = [.ok [], .ok [0x6C]] :=
  ⟨.inl rfl, .inr (.inr (.inr rfl)), ⟨rfl, rfl⟩, rfl, rfl, .inl rfl, .inr ⟨_, rfl, by decide⟩, ⟨rfl, rfl⟩, rfl, rfl⟩

/-- RaisingCompTEndsAPublicCommand: V-T6's constants, whose divisor is 0 at UT = 23153. -/
theorem raising_public_comp_t_meets :
    let s : State := { ready [] [.ok [], .ok [0x5A, 0x71]] with cal := { exampleCal with mc := 0, md := 0 } }
    isPublic .readAltitude ∧ Quiet s ∧ s.calValid = true ∧ s.answers = [.ok [], .ok [0x5A, 0x71]]
      ∧ temperature s.cal ((0x5A : Byte) ++ (0x71 : Byte)) = .error ⟨.div0T, .t2⟩ :=
  ⟨.inr (.inr (.inl rfl)), ⟨rfl, rfl⟩, rfl, rfl, by decide +kernel⟩

/-- FailedPressureKeepsTheTemperature: V-E11 (UP = 421). -/
theorem failed_pressure_meets :
    let s := ready [] [.ok [], .ok [0x6C, 0xFA], .ok [], .ok [0x01, 0xA5, 0x00]]
    readsPressure .readPressure ∧ readsPressure .readSealevel ∧ Quiet s ∧ s.calValid = true
      ∧ s.answers = [.ok [], .ok [0x6C, 0xFA], .ok [], .ok [0x01, 0xA5, 0x00]]
      ∧ temperature s.cal ((0x6C : Byte) ++ (0xFA : Byte)) = .ok (2400, 150)
      ∧ pressure s.cal s.mode 2400 (upOf s.mode ((0x01 : Byte) ++ (0xA5 : Byte) ++ (0x00 : Byte)))
        = .error ⟨.range, .p10a⟩ :=
  ⟨.inl rfl, .inr (.inr rfl), ⟨rfl, rfl⟩, rfl, rfl, by decide +kernel, by decide +kernel⟩

/-- FailedPressureReadKeepsB5: V-R6, a failed write, and answers one byte short and one byte long. -/
theorem failed_pressure_read_meets :
    let s := ready [] [.ok [], .ok [0x6C, 0xFA], .ok [], .fail]
    let s' := ready [] [.ok [], .ok [0x6C, 0xFA], .fail]
    readsPressure .readPressure ∧ Quiet s ∧ s.calValid = true
      ∧ temperature s.cal ((0x6C : Byte) ++ (0xFA : Byte)) = .ok (2400, 150)
      ∧ s.answers = [.ok [], .ok [0x6C, 0xFA], .ok [], .fail] ∧ badAnswer 3 .fail ∧ badAnswer 3 (.ok [1, 2])
      ∧ badAnswer 3 (.ok [1, 2, 3, 4]) ∧ Quiet s' ∧ s'.calValid = true
      ∧ s'.answers = [.ok [], .ok [0x6C, 0xFA], .fail] :=
  ⟨.inl rfl, ⟨rfl, rfl⟩, rfl, by decide +kernel, rfl, .inl rfl, .inr ⟨_, rfl, by decide⟩, .inr ⟨_, rfl, by decide⟩,
    ⟨rfl, rfl⟩, rfl, rfl⟩

/-- A COMP_T whose Exec raises DIV0_T (V-T6). -/
def raising : State :=
  { midRun .compT 0 [] [] with cal := { exampleCal with mc := 0, md := 0 }, ut := 23153 }

/-- The same as the phase of a READ_TEMPERATURE that begins with this Exec. -/
def raisingPhase : State :=
  { midRun .readTemperature 4 [] [] with
    cal := { exampleCal with mc := 0, md := 0 }, ut := 23153, utValid := true }

/-- RaisingExecCommitsNothing: an Exec that begins no phase, and one that begins a phase. -/
theorem raising_exec_meets :
    (raising.agenda = [] ∧ raising.seq = .run .compT [⟨none, .exec .compT⟩] ∧ phaseRefusal none raising = none
        ∧ commitPrim .compT (phaseStart none { raising with timer := 0 }) = .error .div0T)
      ∧ raisingPhase.agenda = [] ∧ raisingPhase.seq = .run .readTemperature [⟨some .compT, .exec .compT⟩]
      ∧ phaseRefusal (some .compT) raisingPhase = none
      ∧ commitPrim .compT (phaseStart (some .compT) { raisingPhase with timer := 0 }) = .error .div0T := by decide

/-- UnansweredTransactionStaysInFlight: a write with no answer yet, a read that is never answered. -/
theorem unanswered_meets :
    (midRun .sampleT 0 [] []).seq = .run .sampleT (⟨none, .txWrite 0xF4 0x2E⟩ :: (primList (uopsSampleT Params.default)).drop 1)
      ∧ (midRun .sampleT 2 [] [.never]).seq
        = .run .sampleT (⟨none, .txRead 0xF6 2 .rxbuf⟩ :: (primList (uopsSampleT Params.default)).drop 3)
      ∧ (midRun .sampleT 2 [] [.never]).answers = [.never] ∧ (midRun .sampleT 0 [] []).answers = [] := by decide

/-- A reset while a transaction is in flight. -/
theorem reset_meets :
    (midRun .readPressure 2 [.reset 1 0x77] [.never, .fail]).agenda = [.reset 1 0x77]
      ∧ (after { midRun .readPressure 2 [.reset 1 0x77] [.never, .fail] with inFlight := true }).answers = [.fail] := by
  decide

/-- EveryStepKeepsCoherence: coherent states that are idle, running and waiting for an answer. -/
theorem coherence_meets :
    Coherent (ready [] []) ∧ Coherent (midRun .readPressure 3 [] []) ∧ Coherent (midRun .sampleT 2 [] [.never])
      ∧ step (midRun .readPressure 3 [] []) = .next (after (midRun .readPressure 3 [] [])) := by
  unfold Coherent
  exact ⟨by decide, by decide, by decide, rfl⟩

/-- CalibrationIsImmutableUntilReset, AcceptedCommandsNeverEndInAUsageError. -/
theorem coherent_run_meets :
    Coherent (midRun .sampleP 3 [] []) ∧ (midRun .sampleP 3 [] []).calValid = true
      ∧ (midRun .sampleP 3 [] []).agenda = [] ∧ busy (midRun .sampleP 3 [] []) = true
      ∧ step (midRun .sampleP 3 [] []) = .next (after (midRun .sampleP 3 [] [])) := by
  unfold Coherent
  exact ⟨by decide, by decide, by decide, by decide, rfl⟩

/-- EachRegisterHasItsOneWriter: a step that changes PRES and sets P_VALID, one that begins a phase and clears
UT_VALID, and a command whose start clears T_VALID. -/
theorem one_writer_meets :
    let s : State := { midRun .compP 0 [] [] with up := 23843, b5 := 2400 }
    (s.agenda = [] ∧ step s = .next (after s) ∧ (after s).pres = 69964 ∧ s.pres = 0 ∧ raised s.pValid (after s).pValid)
      ∧ cleared raisingPhase.utValid (after raisingPhase).utValid
      ∧ ∃ t, exec .readTemperature { ready [] [] with tValid := true } = .next t ∧ cleared true t.tValid :=
  ⟨⟨rfl, rfl, by decide +kernel, rfl, rfl, by decide +kernel⟩, ⟨rfl, by decide +kernel⟩, _, rfl, rfl, rfl⟩

theorem interleaved_meets :
    ([.hostRead 0x01, .engine, .elapse 4500, .engine] : List Stimulus).all isPassive = true := by decide

/-- EngineStepRunsOneUop: a step in the middle, a last one, one that raises, one without an answer, and (in a
state no run reaches) a phase whose precondition fails. -/
theorem one_uop_meets :
    (after (midRun .sampleT 1 [] [])).seq = .run .sampleT ((primList (uopsSampleT Params.default)).drop 2)
      ∧ (after (midRun .sampleT 3 [] [])).seq = .idle ∧ (after raising).err = .div0T
      ∧ (after (midRun .sampleT 0 [] [])).inFlight = true
      ∧ phaseRefusal (some .compT) { raisingPhase with utValid := false } = some .nodata
      ∧ (after { raisingPhase with utValid := false }).err = .nodata := by decide

/-- UltraHighResWaitsLongest, with the defaults: 13500 against 25500 microseconds (E6). -/
theorem ultra_high_res_meets :
    Params.default.wf = true ∧ UOp.wait 13500 ∈ uopsSampleP Params.default 2
      ∧ UOp.wait 25500 ∈ uopsSampleP Params.default 3 := by decide

theorem poll_meets :
    (ready [.poll] []).agenda = [.poll] ∧ (after (midRun .sampleT 1 [.poll] [])).agenda = [.engine, .poll] := by decide

end Sys2Proof.Tests
end

section
/-! The scope chapter's statements: binary64 arithmetic and integer conversion (R13), and the settle
times' constraint (R8). Each arithmetic operation on finite operands is one rounding of the exact result. -/

namespace Sys2Proof.Proofs

open Sys2Proof Sys2Proof.Machine Sys2Proof.Spec Sys2Proof.Laws

/-! ### Settle times -/

theorem wait_mem_uopsSampleP {p : Params} {mode : BitVec 2} {t : Nat} :
    .wait t ∈ uopsSampleP p mode ↔ t = modeGet p.tSettleP mode := by
  simp [uopsSampleP]

theorem params_wf_iff (p : Params) :
    p.wf = true ↔ p.tSettleP.ultraLowPower ≤ p.tSettleP.ultraHighRes ∧
      p.tSettleP.standard ≤ p.tSettleP.ultraHighRes ∧ p.tSettleP.highRes ≤ p.tSettleP.ultraHighRes := by
  simp [Params.wf, and_assoc]

/-- The constraint of R8, read at any mode. -/
theorem modeGet_le_of_wf {p : Params} (h : p.wf = true) (mode : BitVec 2) :
    modeGet p.tSettleP mode ≤ modeGet p.tSettleP 3 := by
  obtain ⟨hlow, hstd, hhigh⟩ := (params_wf_iff p).1 h
  obtain rfl | rfl | rfl | rfl := mode_cases mode
  · exact hlow
  · exact hstd
  · exact hhigh
  · exact le_rfl

/-- Settles O56: SAMPLE_P's list has one wait, the mode's entry of the settle table. -/
theorem ultraHighResWaitsLongest : Obligations.UltraHighResWaitsLongest := by
  intro p mode t t' hwf ht ht'
  rw [wait_mem_uopsSampleP] at ht ht'
  subst ht ht'
  exact modeGet_le_of_wf hwf mode

/-! ### Signs and magnitudes -/

/-- The integer of a sign and a magnitude, as `f64Units` reads a pattern. -/
def signed (s : Bool) (m : Nat) : Int := if s then -(m : Int) else m

theorem f64Units_eq_signed (x : F64) : f64Units x = signed (f64Sign x) (f64Mag x) := rfl

theorem signed_mul (s t : Bool) (m n : Nat) : signed s m * signed t n = signed (s ^^ t) (m * n) := by
  cases s <;> cases t <;> simp [signed]

theorem signed_mul_two_pow (s : Bool) (m n : Nat) : signed s m * 2 ^ n = signed s (m * 2 ^ n) := by
  cases s <;> simp [signed]

theorem signed_natAbs (v : Int) : signed (decide (v < 0)) v.natAbs = v := by
  by_cases h : v < 0
  · simp [signed, h, abs_of_neg h]
  · simp [signed, h, not_lt.1 h]

theorem natAbs_signed (s : Bool) (m : Nat) : (signed s m).natAbs = m := by
  cases s <;> simp [signed]

theorem sign_signed (s : Bool) {m : Nat} (h : m ≠ 0) : (signed s m).sign = signed s 1 := by
  cases s <;> simp [signed, Int.sign_natCast_of_ne_zero h]

/-! ### Integer conversion -/

/-- The units of an integer of at most 53 bits are far below the overflow threshold. -/
theorem units_lt_overflow {m : Nat} (h : m < 2 ^ 53) : m * 2 ^ 1074 < 1 * ((2 ^ 54 - 1) * 2 ^ 2044) := by
  rw [Nat.one_mul]
  have hm : m < 2 ^ 54 - 1 := by omega
  gcongr <;> norm_num

/-- Settles O30: the magnitude is that of a pattern (`exists_mag_eq`), so it rounds to itself. -/
theorem integersConvertExactly : Obligations.IntegersConvertExactly := by
  intro i hi
  have hlt := units_lt_overflow hi
  have hfit := (roundBits_nearest Nat.one_pos hlt).1
  have hmag := roundBits_exact Nat.one_pos hlt (Nat.one_mul _).symm (exists_mag_eq hi)
  refine ⟨f64IsFinite_pack _ hfit, ?_⟩
  calc f64Units (f64OfInt i)
      = signed (decide (i < 0)) (i.natAbs * 2 ^ 1074) := by rw [f64OfInt, f64Units_round _ hfit, hmag, signed]
    _ = i * 2 ^ 1074 := by rw [← signed_mul_two_pow, signed_natAbs]

/-! ### Arithmetic -/

/-- One rounding of a result below the overflow threshold is a nearest value, in the statement's words. -/
theorem nearest_f64Round {num den : Nat} (s : Bool) (hd : 0 < den) (hlt : num < den * overflowUnits) :
    Nearest (signed s num) den (f64Round s num den) := by
  unfold overflowUnits at hlt
  obtain ⟨hfin, hnear⟩ := f64Round_nearest s hd hlt
  exact ⟨hfin, fun y _ => hnear y⟩

theorem f64Zero_eq_round (s : Bool) : f64Zero s = f64Round s 0 1 := by
  cases s <;> decide

/-- A finite sum is one rounding of the exact sum; where that is zero, either sign stands for it. -/
theorem f64Add_eq_round (nan : F64) {a b : F64} (ha : f64IsFinite a = true) (hb : f64IsFinite b = true) :
    ∃ s, signed s (f64Units a + f64Units b).natAbs = f64Units a + f64Units b
      ∧ f64Add nan a b = f64Round s (f64Units a + f64Units b).natAbs 1 := by
  obtain ⟨hna, hia⟩ := isNaN_isInf_of_finite ha
  obtain ⟨hnb, hib⟩ := isNaN_isInf_of_finite hb
  simp only [f64Add, hna, hia, hnb, hib, Bool.or_self, Bool.false_eq_true, if_false]
  generalize f64Units a + f64Units b = v
  by_cases hv : v = 0
  · subst hv
    exact ⟨f64Sign a && f64Sign b, by simp [signed], by rw [if_pos rfl, f64Zero_eq_round]; rfl⟩
  · exact ⟨decide (v < 0), signed_natAbs v, if_neg hv⟩

theorem f64Mul_eq_round (nan : F64) {a b : F64} (ha : f64IsFinite a = true) (hb : f64IsFinite b = true) :
    f64Mul nan a b = f64Round (f64Sign a ^^ f64Sign b) (f64Mag a * f64Mag b) (2 ^ 1074) := by
  obtain ⟨hna, hia⟩ := isNaN_isInf_of_finite ha
  obtain ⟨hnb, hib⟩ := isNaN_isInf_of_finite hb
  simp only [f64Mul, hna, hia, hnb, hib, Bool.or_self, Bool.false_eq_true, if_false]

theorem f64Div_eq_round (nan : F64) {a b : F64} (ha : f64IsFinite a = true) (hb : f64IsFinite b = true)
    (h0 : f64Mag b ≠ 0) :
    f64Div nan a b = f64Round (f64Sign a ^^ f64Sign b) (f64Mag a * 2 ^ 1074) (f64Mag b) := by
  obtain ⟨hna, hia⟩ := isNaN_isInf_of_finite ha
  obtain ⟨hnb, hib⟩ := isNaN_isInf_of_finite hb
  have hz : f64IsZero b = false := by rwa [← Bool.not_eq_true, f64IsZero_iff]
  simp only [f64Div, hna, hia, hnb, hib, hz, Bool.or_self, Bool.false_eq_true, if_false]

theorem nearest_f64Add (nan : F64) {a b : F64} (ha : f64IsFinite a = true) (hb : f64IsFinite b = true)
    (hlt : (f64Units a + f64Units b).natAbs < overflowUnits) :
    Nearest (f64Units a + f64Units b) 1 (f64Add nan a b) := by
  obtain ⟨s, hs, hadd⟩ := f64Add_eq_round nan ha hb
  have hround := nearest_f64Round s Nat.one_pos (by rwa [Nat.one_mul])
  rwa [hs, ← hadd] at hround

theorem f64IsFinite_neg (x : F64) : f64IsFinite (f64Neg x) = f64IsFinite x := by
  obtain ⟨-, hexp, -⟩ := f64Neg_fields x
  rw [f64IsFinite, f64IsFinite, hexp]

theorem nearest_f64Sub (nan : F64) {a b : F64} (ha : f64IsFinite a = true) (hb : f64IsFinite b = true)
    (hlt : (f64Units a - f64Units b).natAbs < overflowUnits) :
    Nearest (f64Units a - f64Units b) 1 (f64Sub nan a b) := by
  rw [sub_eq_add_neg, ← f64Neg_units] at hlt ⊢
  exact nearest_f64Add nan ha (by rwa [f64IsFinite_neg]) hlt

theorem nearest_f64Mul (nan : F64) {a b : F64} (ha : f64IsFinite a = true) (hb : f64IsFinite b = true)
    (hlt : (f64Units a * f64Units b).natAbs < 2 ^ 1074 * overflowUnits) :
    Nearest (f64Units a * f64Units b) (2 ^ 1074) (f64Mul nan a b) := by
  rw [f64Units_eq_signed, f64Units_eq_signed, signed_mul] at hlt ⊢
  rw [natAbs_signed] at hlt
  rw [f64Mul_eq_round nan ha hb]
  exact nearest_f64Round _ (by positivity) hlt

/-- The exact quotient's numerator carries the sign of the quotient. -/
theorem sign_mul_units (a : F64) {b : F64} (h0 : f64Mag b ≠ 0) (n : Nat) :
    (f64Units b).sign * f64Units a * 2 ^ n = signed (f64Sign a ^^ f64Sign b) (f64Mag a * 2 ^ n) := by
  rw [f64Units_eq_signed, f64Units_eq_signed, sign_signed _ h0, signed_mul, signed_mul_two_pow, Nat.one_mul,
    Bool.xor_comm]

theorem nearest_f64Div (nan : F64) {a b : F64} (ha : f64IsFinite a = true) (hb : f64IsFinite b = true)
    (h0 : f64Units b ≠ 0) (hlt : (f64Units a).natAbs * 2 ^ 1074 < (f64Units b).natAbs * overflowUnits) :
    Nearest ((f64Units b).sign * f64Units a * 2 ^ 1074) (f64Units b).natAbs (f64Div nan a b) := by
  rw [← Int.natAbs_ne_zero, f64Units_natAbs] at h0
  rw [f64Units_natAbs, f64Units_natAbs] at hlt
  rw [f64Units_natAbs, f64Div_eq_round nan ha hb h0, sign_mul_units a h0]
  exact nearest_f64Round _ (Nat.pos_of_ne_zero h0) hlt

/-- Settles O29: each operation is one rounding of its exact result. -/
theorem arithmeticRoundsToNearestEven : Obligations.ArithmeticRoundsToNearestEven := fun nan _ _ ha hb =>
  ⟨nearest_f64Add nan ha hb, nearest_f64Sub nan ha hb, nearest_f64Mul nan ha hb, nearest_f64Div nan ha hb⟩

end Sys2Proof.Proofs
end

section
/-! The state chapter's statements: what one engine step runs and writes (R48, R51), what an operand write
stores (R45), and the invariant `Coherent` with what it keeps (R34, R220, R246). An engine step is taken apart
once (`runOp_cases`, `engineStep_writes`), and so is the invariant (`coherent_run_iff`, `coherent_idle_iff`). -/

namespace Sys2Proof.Proofs

open Sys2Proof Sys2Proof.Machine Sys2Proof.Safety Sys2Proof.Spec Sys2Proof.Laws

/-! ### The beginning of a phase -/

theorem needCalAnd_eq (data : Bool) (s : State) :
    needCalAnd data s = if !s.calValid then some .nocal else if data then none else some .nodata := by
  cases h : s.calValid <;> simp [needCalAnd, h]

/-- The model's checks are the rows of R243. -/
theorem checkPrim_eq_refusal (p : Prim) (s : State) : checkPrim p s = refusal (commandOfPhase p) s := by
  cases p with
  | loadCal | sampleT | sampleP => rfl
  | compT | compP | alt | slp => exact needCalAnd_eq _ s

/-- The model's start effects are the rows of R51. -/
theorem startPrim_eq_startClears (p : Prim) (s : State) : startPrim p s = startClears (commandOfPhase p) s := by
  cases p <;> rfl

theorem beginPhase_of_refused {b : Option Prim} {s : State} {e : ErrCode} (h : phaseRefusal b s = some e) :
    beginPhase b s = .error e := by
  cases b with
  | none => cases h
  | some p =>
    replace h : checkPrim p s = some e := (checkPrim_eq_refusal p s).trans h
    simp [beginPhase, h]

theorem beginPhase_of_ready {b : Option Prim} {s : State} (h : phaseRefusal b s = none) :
    beginPhase b s = .ok (phaseStart b s) := by
  cases b with
  | none => rfl
  | some p =>
    replace h : checkPrim p s = none := (checkPrim_eq_refusal p s).trans h
    simp [beginPhase, h, phaseStart, startPrim_eq_startClears]

theorem phaseRefusal_timer (b : Option Prim) (t : Nat) (s : State) :
    phaseRefusal b { s with timer := t } = phaseRefusal b s := by
  cases b with
  | none => rfl
  | some p => cases p <;> rfl

/-! ### Commits -/

theorem commitCompT_ok {s u : State} (h : commitCompT s = .ok u) :
    ∃ b5 t10, compTOf s = .ok (b5, t10) ∧ u = { s with
      b5 := BitVec.ofInt 32 b5, b5Valid := true, t10 := BitVec.ofInt 32 t10, tempC := tempCOf t10,
      tValid := true } := by
  unfold commitCompT at h
  split at h
  · cases h
  · next b5 t10 hc => exact ⟨b5, t10, hc, (Except.ok.inj h).symm⟩

theorem commitCompP_ok {s u : State} (h : commitCompP s = .ok u) :
    ∃ pres, compPOf s = .ok pres ∧ u = { s with pres := BitVec.ofInt 32 pres, pValid := true } := by
  unfold commitCompP at h
  split at h
  · cases h
  · next pres hc => exact ⟨pres, hc, (Except.ok.inj h).symm⟩

/-- A commit leaves the engine's own fields, the operand registers and the record as they are. -/
theorem commitPrim_frame {f : Prim} {s u : State} (h : commitPrim f s = .ok u) :
    u = { s with
      cal := u.cal, calValid := u.calValid, ut := u.ut, utValid := u.utValid, up := u.up, upValid := u.upValid,
      b5 := u.b5, b5Valid := u.b5Valid, t10 := u.t10, tempC := u.tempC, tValid := u.tValid, pres := u.pres,
      pValid := u.pValid, altOut := u.altOut, altValid := u.altValid, slpOut := u.slpOut, slpValid := u.slpValid,
      nanCount := u.nanCount } := by
  cases f with
  | loadCal | sampleT | sampleP | alt | slp => cases h; rfl
  | compT => obtain ⟨b5, t10, -, rfl⟩ := commitCompT_ok h; rfl
  | compP => obtain ⟨pres, -, rfl⟩ := commitCompP_ok h; rfl

theorem commitPrim_trace {f : Prim} {s u : State} (h : commitPrim f s = .ok u) : u.trace = s.trace := by
  rw [commitPrim_frame h]

/-! ### The effect of a µop -/

/-- A µop waits for its answer, raises its error, or completes, each from the state its effect leaves. -/
theorem runOp_cases (cmd : Instr) (op : UOp) (rest : List Slot) (s : State) :
    (uopEffect cmd op s = none ∧ runOp cmd op rest s = holdTransaction cmd op rest s)
      ∨ (∃ e u, uopEffect cmd op s = some (some e, u) ∧ runOp cmd op rest s = raiseError e u)
      ∨ ∃ u, uopEffect cmd op s = some (none, u) ∧ runOp cmd op rest s = advance cmd rest u := by
  cases op with
  | txWrite reg val =>
    obtain ⟨bs, later, ha, hr⟩ | ⟨later, ha, hr⟩ | ⟨ha | ⟨later, ha⟩, hr⟩ := runTxWrite_cases cmd reg val rest s
    · exact .inr (.inr ⟨_, by simp only [uopEffect, ha]; rfl, hr⟩)
    · exact .inr (.inl ⟨_, _, by simp only [uopEffect, ha]; rfl, hr⟩)
    · exact .inl ⟨by simp only [uopEffect, ha], hr⟩
    · exact .inl ⟨by simp only [uopEffect, ha], hr⟩
  | txRead reg n dst =>
    obtain ⟨bs, later, ha, hlen, hr⟩ | ⟨bs, later, ha, hlen, hr⟩ | ⟨later, ha, hr⟩ | ⟨ha | ⟨later, ha⟩, hr⟩ :=
      runTxRead_cases cmd reg n dst rest s
    · refine .inr (.inr ⟨_, ?_, hr⟩)
      cases dst <;> simp only [uopEffect, ha, hlen, ne_eq, not_true_eq_false, if_false] <;> rfl
    · exact .inr (.inl ⟨_, _, by simp only [uopEffect, ha, ne_eq, hlen, not_false_eq_true, if_true]; rfl, hr⟩)
    · exact .inr (.inl ⟨_, _, by simp only [uopEffect, ha]; rfl, hr⟩)
    · exact .inl ⟨by simp only [uopEffect, ha], hr⟩
    · exact .inl ⟨by simp only [uopEffect, ha], hr⟩
  | wait t => exact .inr (.inr ⟨_, rfl, rfl⟩)
  | exec f =>
    obtain ⟨u, hc, hr⟩ | ⟨e, hc, hr⟩ := runExec_cases cmd f rest s
    · exact .inr (.inr ⟨_, by simp only [uopEffect, hc, ← commitPrim_trace hc]; rfl, hr⟩)
    · exact .inr (.inl ⟨_, _, by simp only [uopEffect, hc]; rfl, hr⟩)

/-- Settles O55: the phase begins or is refused, and `runOp_cases` says how its first µop goes. -/
theorem engineStepRunsOneUop : Obligations.EngineStepRunsOneUop := by
  intro s cmd slot rest hagenda hseq
  have hstep : step s = .next (runSlot cmd slot rest { s with timer := 0 }) := by
    rw [step_of_agenda_nil hagenda, engineStep_run hseq]
  rw [hstep, ← phaseRefusal_timer slot.begins 0 s]
  cases href : phaseRefusal slot.begins { s with timer := 0 } with
  | some e => simp only [runSlot, beginPhase_of_refused href]; rfl
  | none =>
    simp only [runSlot, beginPhase_of_ready href]
    obtain ⟨heff, hrun⟩ | ⟨e, u, heff, hrun⟩ | ⟨u, heff, hrun⟩ :=
      runOp_cases cmd slot.op rest (phaseStart slot.begins { s with timer := 0 })
    · simp only [heff, hrun]; rfl
    · simp only [heff, hrun]; rfl
    · simp only [heff, hrun]
      obtain ⟨hrest, hadv⟩ | ⟨hrest, hadv⟩ := advance_cases cmd rest u
      · rw [hadv, if_pos hrest]
      · rw [hadv, if_neg hrest]

/-! ### Operand registers -/

theorem step_of_writeOther_ok {s u : State} {idx : Byte} {data : BitVec 64} {later : List Stimulus}
    (ha : s.agenda = .hostWrite idx data :: later) (hidx : idx ≠ 0x00)
    (hw : writeOther idx data { s with agenda := later } = (.ok, u)) :
    step s = .next (record (.hostWrite idx data .ok) u) := by
  rw [step_hostWrite_other ha (commandOf_other hidx data), hostWriteOther, hw]

/-- Settles O9: an idle block stores the data of the write. -/
theorem idleOperandWriteStoresThePattern : Obligations.IdleOperandWriteStoresThePattern := by
  intro s data later hidle
  have hfree : busy { s with agenda := later } = false := busy_eq_false hidle
  constructor
  · exact fun ha => step_of_writeOther_ok (u := { s with agenda := later, sealevelIn := data }) ha (by decide)
      (by simp [writeOther, decodeIndex, hfree])
  · exact fun ha => step_of_writeOther_ok (u := { s with agenda := later, altitudeIn := data }) ha (by decide)
      (by simp [writeOther, decodeIndex, hfree])

/-! ### What an engine step writes -/

/-- The valid flags after a command's start, the column of R51 read flag by flag. -/
theorem startClears_eq (i : Instr) (s : State) : startClears i s = { s with
    utValid := (i != .sampleT && i != .compT) && s.utValid
    upValid := (i != .sampleP && i != .compP) && s.upValid
    b5Valid := (i != .compT && i != .compP) && s.b5Valid
    tValid := (i != .compT && i != .readTemperature && i != .readPressure && i != .readAltitude
      && i != .readSealevel) && s.tValid
    pValid := (i != .compP && i != .readPressure && i != .readAltitude && i != .readSealevel) && s.pValid
    altValid := (i != .alt && i != .readAltitude) && s.altValid
    slpValid := (i != .slp && i != .readSealevel) && s.slpValid } := by
  cases i <;> rfl

/-- The registers and flags of R51 after an engine step from s to t, in which the phase `b` began, if any, and the
commit of `f` happened, if any. -/
structure Writes (b f : Option Prim) (s t : State) : Prop where
  cal : f ≠ some .loadCal → t.cal = s.cal
  calValid : t.calValid = true ↔ s.calValid = true ∨ f = some .loadCal
  ut : f ≠ some .sampleT → t.ut = s.ut
  utValid : t.utValid = true ↔ (s.utValid = true ∧ b ≠ some .sampleT ∧ b ≠ some .compT) ∨ f = some .sampleT
  up : f ≠ some .sampleP → t.up = s.up
  upValid : t.upValid = true ↔ (s.upValid = true ∧ b ≠ some .sampleP ∧ b ≠ some .compP) ∨ f = some .sampleP
  b5 : f ≠ some .compT → t.b5 = s.b5
  b5Valid : t.b5Valid = true ↔ (s.b5Valid = true ∧ b ≠ some .compT ∧ b ≠ some .compP) ∨ f = some .compT
  t10 : f ≠ some .compT → t.t10 = s.t10
  tempC : f ≠ some .compT → t.tempC = s.tempC
  tValid : t.tValid = true ↔ (s.tValid = true ∧ b ≠ some .compT) ∨ f = some .compT
  pres : f ≠ some .compP → t.pres = s.pres
  pValid : t.pValid = true ↔ (s.pValid = true ∧ b ≠ some .compP) ∨ f = some .compP
  altOut : f ≠ some .alt → t.altOut = s.altOut
  altValid : t.altValid = true ↔ (s.altValid = true ∧ b ≠ some .alt) ∨ f = some .alt
  slpOut : f ≠ some .slp → t.slpOut = s.slpOut
  slpValid : t.slpValid = true ↔ (s.slpValid = true ∧ b ≠ some .slp) ∨ f = some .slp
  sealevelIn : t.sealevelIn = s.sealevelIn
  altitudeIn : t.altitudeIn = s.altitudeIn
  ovr : t.ovr = s.ovr
  lastCmd : t.lastCmd = s.lastCmd
  mode : t.mode = s.mode
  devAddr : t.devAddr = s.devAddr
  params : t.params = s.params
  agenda : t.agenda = s.agenda

/-- A phase begins, then a µop commits. -/
theorem Writes.trans {b f : Option Prim} {s u t : State} (hb : Writes b none s u) (hf : Writes none f u t) :
    Writes b f s t where
  cal h := (hf.cal h).trans (hb.cal nofun)
  calValid := by simp [hf.calValid, hb.calValid]
  ut h := (hf.ut h).trans (hb.ut nofun)
  utValid := by simp [hf.utValid, hb.utValid]
  up h := (hf.up h).trans (hb.up nofun)
  upValid := by simp [hf.upValid, hb.upValid]
  b5 h := (hf.b5 h).trans (hb.b5 nofun)
  b5Valid := by simp [hf.b5Valid, hb.b5Valid]
  t10 h := (hf.t10 h).trans (hb.t10 nofun)
  tempC h := (hf.tempC h).trans (hb.tempC nofun)
  tValid := by simp [hf.tValid, hb.tValid]
  pres h := (hf.pres h).trans (hb.pres nofun)
  pValid := by simp [hf.pValid, hb.pValid]
  altOut h := (hf.altOut h).trans (hb.altOut nofun)
  altValid := by simp [hf.altValid, hb.altValid]
  slpOut h := (hf.slpOut h).trans (hb.slpOut nofun)
  slpValid := by simp [hf.slpValid, hb.slpValid]
  sealevelIn := hf.sealevelIn.trans hb.sealevelIn
  altitudeIn := hf.altitudeIn.trans hb.altitudeIn
  ovr := hf.ovr.trans hb.ovr
  lastCmd := hf.lastCmd.trans hb.lastCmd
  mode := hf.mode.trans hb.mode
  devAddr := hf.devAddr.trans hb.devAddr
  params := hf.params.trans hb.params
  agenda := hf.agenda.trans hb.agenda

theorem Writes.refl (s : State) : Writes none none s s := by
  constructor <;> simp

/-- The engine's own fields are no registers of R51. -/
theorem Writes.of_engine_fields {b f : Option Prim} {s u t : State} (hw : Writes b f s u) (h : t = { u with
    stg := t.stg, rxbuf := t.rxbuf, err := t.err, seq := t.seq, timer := t.timer, inFlight := t.inFlight,
    answers := t.answers, trace := t.trace }) : Writes b f s t := by
  rw [h]
  exact { hw with }

theorem phaseStart_writes (b : Option Prim) (s : State) : Writes b none s (phaseStart b s) := by
  cases b with
  | none => exact Writes.refl s
  | some p => cases p <;> constructor <;> simp [phaseStart, commandOfPhase, startClears]

theorem commitPrim_writes {f : Prim} {s u : State} (h : commitPrim f s = .ok u) : Writes none (some f) s u := by
  cases f with
  | loadCal | sampleT | sampleP | alt | slp => cases h; constructor <;> simp
  | compT => obtain ⟨b5, t10, -, rfl⟩ := commitCompT_ok h; constructor <;> simp
  | compP => obtain ⟨pres, -, rfl⟩ := commitCompP_ok h; constructor <;> simp

/-- The function whose commit a µop is. -/
def commitOf : UOp → Option Prim
  | .exec f => some f
  | .txWrite _ _ => none
  | .txRead _ _ _ => none
  | .wait _ => none

theorem commitOf_eq_some {op : UOp} {f : Prim} : commitOf op = some f ↔ op = .exec f := by
  cases op <;> simp [commitOf]

/-- The ways a µop with an effect goes: a transaction that stores nothing, a read that stores its bytes, a wait, an
Exec that commits, an Exec that raises. -/
theorem uopEffect_cases {cmd : Instr} {op : UOp} {s u : State} {r : Option ErrCode}
    (h : uopEffect cmd op s = some (r, u)) :
    (commitOf op = none ∧ (r = none ∨ r = some .transport) ∧ ∃ answers trace,
        u = { s with answers := answers, inFlight := false, trace := trace })
      ∨ (∃ reg dst bs answers trace, op = .txRead reg bs.length dst ∧ r = none
        ∧ u = storeBytes dst bs { s with answers := answers, inFlight := false, trace := trace })
      ∨ (∃ t, op = .wait t ∧ r = none ∧ u = { s with timer := t, trace := s.trace ++ [.wait t] })
      ∨ (∃ f v, op = .exec f ∧ r = none ∧ commitPrim f s = .ok v ∧ u = { v with trace := s.trace ++ [.exec cmd f] })
      ∨ ∃ f e, op = .exec f ∧ r = some e ∧ commitPrim f s = .error e ∧ u = record (.exec cmd f) s := by
  cases op with
  | txWrite reg val =>
    refine .inl ⟨rfl, ?_⟩
    rcases ha : s.answers with _ | ⟨_ | _ | _, later⟩ <;> simp only [uopEffect, ha] at h
    · cases h
    · cases h; exact ⟨.inl rfl, _, _, rfl⟩
    · cases h; exact ⟨.inr rfl, _, _, rfl⟩
    · cases h
  | txRead reg n dst =>
    rcases ha : s.answers with _ | ⟨bs | _ | _, later⟩ <;> simp only [uopEffect, ha] at h
    · cases h
    · split at h
      · cases h; exact .inl ⟨rfl, .inr rfl, _, _, rfl⟩
      · next hlen =>
        obtain rfl := not_not.1 hlen
        refine .inr (.inl ⟨reg, dst, bs, later, s.trace ++ [.txRead s.devAddr reg bs.length (some bs)], rfl, ?_⟩)
        cases dst <;> cases h <;> exact ⟨rfl, rfl⟩
    · cases h; exact .inl ⟨rfl, .inr rfl, _, _, rfl⟩
    · cases h
  | wait t => cases h; exact .inr (.inr (.inl ⟨t, rfl, rfl, rfl⟩))
  | exec f =>
    cases hc : commitPrim f s <;> simp only [uopEffect, hc] at h <;> cases h
    · exact .inr (.inr (.inr (.inr ⟨f, _, rfl, rfl, hc, rfl⟩)))
    · exact .inr (.inr (.inr (.inl ⟨f, _, rfl, rfl, hc, rfl⟩)))

/-- A completed µop writes what its commit writes. -/
theorem uopEffect_done_writes {cmd : Instr} {op : UOp} {s u : State} (h : uopEffect cmd op s = some (none, u)) :
    Writes none (commitOf op) s u := by
  obtain ⟨hop, -, answers, trace, rfl⟩ | ⟨reg, dst, bs, answers, trace, rfl, -, rfl⟩ | ⟨t, rfl, -, rfl⟩
    | ⟨f, v, rfl, -, hc, rfl⟩ | ⟨f, e, -, he, -⟩ := uopEffect_cases h
  · rw [hop]
    exact (Writes.refl s).of_engine_fields rfl
  · cases dst <;> exact (Writes.refl s).of_engine_fields rfl
  · exact (Writes.refl s).of_engine_fields rfl
  · exact (commitPrim_writes hc).of_engine_fields rfl
  · cases he

/-- A µop that raises writes nothing (R246). -/
theorem uopEffect_raise_writes {cmd : Instr} {op : UOp} {s u : State} {e : ErrCode}
    (h : uopEffect cmd op s = some (some e, u)) : Writes none none s u := by
  obtain ⟨-, -, answers, trace, rfl⟩ | ⟨_, _, _, _, _, -, he, -⟩ | ⟨_, -, he, -⟩ | ⟨_, _, -, he, -⟩
    | ⟨f, e, -, -, -, rfl⟩ := uopEffect_cases h
  · exact (Writes.refl s).of_engine_fields rfl
  · cases he
  · cases he
  · cases he
  · exact (Writes.refl s).of_engine_fields rfl

theorem advance_writes {b f : Option Prim} {s u : State} (cmd : Instr) (rest : List Slot) (hw : Writes b f s u) :
    Writes b f s (advance cmd rest u) := by
  obtain ⟨-, h⟩ | ⟨-, h⟩ := advance_cases cmd rest u <;> rw [h] <;> exact hw.of_engine_fields rfl

/-- The µop a list begins with. -/
theorem runSlot_writes (cmd : Instr) (slot : Slot) (rest : List Slot) (s : State) :
    ∃ b f, Writes b f s (runSlot cmd slot rest s)
      ∧ (∀ p, b = some p → slot.begins = some p) ∧ ∀ p, f = some p → slot.op = .exec p := by
  cases href : phaseRefusal slot.begins s with
  | some e =>
    refine ⟨none, none, ?_, nofun, nofun⟩
    simp only [runSlot, beginPhase_of_refused href]
    exact (Writes.refl s).of_engine_fields rfl
  | none =>
    simp only [runSlot, beginPhase_of_ready href]
    have hbegin := phaseStart_writes slot.begins s
    obtain ⟨-, hrun⟩ | ⟨e, u, heff, hrun⟩ | ⟨u, heff, hrun⟩ :=
      runOp_cases cmd slot.op rest (phaseStart slot.begins s) <;> rw [hrun]
    · exact ⟨slot.begins, none, hbegin.of_engine_fields rfl, fun _ => id, nofun⟩
    · exact ⟨slot.begins, none, (hbegin.trans (uopEffect_raise_writes heff)).of_engine_fields rfl, fun _ => id, nofun⟩
    · exact ⟨slot.begins, commitOf slot.op, advance_writes cmd rest (hbegin.trans (uopEffect_done_writes heff)),
        fun _ => id, fun _ => commitOf_eq_some.1⟩

/-- What an engine step writes is by the head µop: the start of the phase it begins, and the commit it is. -/
theorem engineStep_writes (s : State) : ∃ b f, Writes b f s (engineStep s)
    ∧ (∀ p, b = some p → ((remaining s).head?.bind (·.begins)) = some p)
    ∧ ∀ p, f = some p → ((remaining s).head?.map (·.op)) = some (.exec p) := by
  have hclock : Writes none none s { s with timer := 0 } := (Writes.refl s).of_engine_fields rfl
  rcases hseq : s.seq with _ | ⟨cmd, _ | ⟨slot, rest⟩⟩
  · exact ⟨none, none, by rwa [engineStep_idle hseq], nofun, nofun⟩
  · refine ⟨none, none, ?_, nofun, nofun⟩
    simp only [engineStep, hseq]
    exact hclock.of_engine_fields rfl
  · obtain ⟨b, f, hw, hb, hf⟩ := runSlot_writes cmd slot rest { s with timer := 0 }
    have hhead : (remaining s).head? = some slot := by rw [remaining, hseq]; rfl
    rw [engineStep_run hseq, hhead]
    exact ⟨b, f, { hw with }, hb, fun p hp => congrArg some (hf p hp)⟩

/-! ### Acceptance of a command -/

/-- Every command is the write of its code (R242): its row of R243, its row of R51 and its µop list. -/
theorem exec_eq_issueCommand (i : Instr) (s : State) :
    exec i s = .next (issueCommand i (refusal i s) (startClears i) (programOf i s.params s.mode) s) := by
  cases i with
  | compT | compP | alt | slp =>
    change Host.Outcome.next (issueCommand _ (needCalAnd _ s) _ _ s) = _
    rw [needCalAnd_eq]
    rfl
  | loadCal | sampleT | sampleP | readTemperature | readPressure | readAltitude | readSealevel => rfl

/-- A command is dropped, refused or accepted (R74, R242). -/
theorem issueCommand_cases (i : Instr) (failing : Option ErrCode) (start : State → State) (prog : List Slot)
    (s : State) :
    (s.seq ≠ .idle ∧ issueCommand i failing start prog s = dropWrite s)
      ∨ (s.seq = .idle ∧ ∃ e, failing = some e ∧ issueCommand i failing start prog s = refuseCommand (codeOf i) e s)
      ∨ (s.seq = .idle ∧ failing = none ∧ issueCommand i failing start prog s = acceptCommand i start prog s) := by
  by_cases hidle : s.seq = .idle
  · cases failing with
    | some e => exact .inr (.inl ⟨hidle, e, rfl, issueCommand_refused hidle i e start prog⟩)
    | none => exact .inr (.inr ⟨hidle, rfl, issueCommand_accepted hidle i start prog⟩)
  · exact .inl ⟨hidle, issueCommand_busy hidle i failing start prog⟩

/-! ### One writer -/


theorem cleared_of_ne {keep v : Bool} (h : (keep && v) ≠ v) : cleared v (keep && v) ∧ keep = false := by
  cases keep with
  | true => exact absurd (Bool.true_and v) h
  | false =>
    cases v with
    | true => exact ⟨⟨rfl, rfl⟩, rfl⟩
    | false => exact absurd rfl h

section

variable {f : Option Prim} {p : Prim} {v w : Bool}

/-- A register or flag that only the commit of `p` changes, where it has changed. -/
theorem commit_of_changed {P : Prop} (hsame : f ≠ some p → P) (hchanged : ¬ P) : f = some p :=
  not_not.1 (mt hsame hchanged)

theorem commit_of_raised {P : Prop} (hflag : w = true ↔ (v = true ∧ P) ∨ f = some p) (h : raised v w) : f = some p := by
  obtain ⟨hv, hw⟩ := h
  exact (hflag.1 hw).resolve_left fun ⟨ht, _⟩ => Bool.false_ne_true (hv.symm.trans ht)

theorem not_kept_of_cleared {P Q : Prop} (hflag : w = true ↔ (v = true ∧ P) ∨ Q) (h : cleared v w) : ¬ P := by
  obtain ⟨hv, hw⟩ := h
  exact fun hP => Bool.false_ne_true (hw.symm.trans (hflag.2 (.inl ⟨hv, hP⟩)))

end

section

variable {b f : Option Prim} {s t : State} (hw : Writes b f s t)

include hw

theorem Writes.loadCal_of_changed (h : t.cal ≠ s.cal ∨ t.calValid ≠ s.calValid) : f = some .loadCal := by
  obtain h | h := h
  · exact commit_of_changed hw.cal h
  · exact commit_of_changed (fun hf => Bool.eq_iff_iff.2 (hw.calValid.trans (or_iff_left hf))) h

theorem Writes.compT_of_changed (h : t.b5 ≠ s.b5 ∨ t.t10 ≠ s.t10 ∨ t.tempC ≠ s.tempC) : f = some .compT := by
  obtain h | h | h := h
  · exact commit_of_changed hw.b5 h
  · exact commit_of_changed hw.t10 h
  · exact commit_of_changed hw.tempC h

theorem Writes.calValid_not_cleared : ¬ cleared s.calValid t.calValid :=
  fun ⟨hv, hc⟩ => Bool.false_ne_true (hc.symm.trans (hw.calValid.2 (.inl hv)))

end

/-- Settles O53: what an engine step writes is by its head µop (`engineStep_writes`), and a host write clears only by
the start of the command it accepts (`startClears_eq`). -/
theorem eachRegisterHasItsOneWriter : Obligations.EachRegisterHasItsOneWriter := by
  constructor
  · intro s t hagenda hstep
    rw [step_of_agenda_nil hagenda] at hstep
    cases hstep
    obtain ⟨b, f, hw, hb, hf⟩ := engineStep_writes s
    intro runs begins
    have hset {p : Prim} {v w : Bool} {P : Prop} (h : w = true ↔ (v = true ∧ P) ∨ f = some p) (hr : raised v w) :
        runs p := hf p (commit_of_raised h hr)
    have hchange {p : Prim} {P : Prop} (h : f ≠ some p → P) (hn : ¬ P) : runs p := hf p (commit_of_changed h hn)
    have hclear {p : Prim} {v w : Bool} {Q : Prop} (h : w = true ↔ (v = true ∧ b ≠ some p) ∨ Q) (hc : cleared v w) :
        begins p := hb p (not_not.1 (not_kept_of_cleared h hc))
    have hclearEither {p q : Prim} {v w : Bool} {Q : Prop}
        (h : w = true ↔ (v = true ∧ b ≠ some p ∧ b ≠ some q) ∨ Q) (hc : cleared v w) : begins p ∨ begins q :=
      (not_and_or.1 (not_kept_of_cleared h hc)).imp (hb p ∘ not_not.1) (hb q ∘ not_not.1)
    exact ⟨hf _ ∘ hw.loadCal_of_changed, hchange hw.ut, hchange hw.up, hf _ ∘ hw.compT_of_changed, hchange hw.pres,
      hchange hw.altOut, hchange hw.slpOut, hw.sealevelIn, hw.altitudeIn, hw.ovr, hw.lastCmd, hw.mode, hw.devAddr,
      hw.params, hw.agenda.trans hagenda, hw.calValid_not_cleared, hset hw.utValid, hclearEither hw.utValid,
      hset hw.upValid, hclearEither hw.upValid, hset hw.b5Valid, hclearEither hw.b5Valid, hset hw.tValid,
      hclear hw.tValid, hset hw.pValid, hclear hw.pValid, hset hw.altValid, hclear hw.altValid, hset hw.slpValid,
      hclear hw.slpValid⟩
  · intro i s t hexec
    rw [exec_eq_issueCommand] at hexec
    cases hexec
    obtain ⟨-, h⟩ | ⟨-, e, -, h⟩ | ⟨-, -, h⟩ :=
      issueCommand_cases i (refusal i s) (startClears i) (programOf i s.params s.mode) s <;> rw [h]
    · simp
    · simp
    · simp only [acceptCommand, startClears_eq]
      refine ⟨trivial, fun h => ?_, fun h => ?_, fun h => ?_, fun h => ?_, fun h => ?_, fun h => ?_, fun h => ?_⟩
      all_goals
        obtain ⟨hcleared, hi⟩ := cleared_of_ne h
        simp only [Bool.and_eq_false_eq_eq_false_or_eq_false, bne_eq_false_iff_eq, or_assoc] at hi
        exact ⟨hcleared, hi⟩

/-! ### µop lists -/

/-- The function whose Exec ends a command's list (R142 to R224). -/
def lastExec : Instr → Prim
  | .loadCal => .loadCal
  | .sampleT => .sampleT
  | .sampleP => .sampleP
  | .compT => .compT
  | .compP => .compP
  | .alt => .alt
  | .slp => .slp
  | .readTemperature => .compT
  | .readPressure => .compP
  | .readAltitude => .alt
  | .readSealevel => .slp

/-- What holds of each µop of the list of `cmd`: a read into RXBUF is short (R48, R83), and the Exec of LOAD_CAL is
LOAD_CAL's alone. -/
def opFits (cmd : Instr) : UOp → Bool
  | .txRead _ n .rxbuf => n ≤ 3
  | .txRead _ _ (.stg _) => true
  | .exec f => (f == .loadCal) == (cmd == .loadCal)
  | .txWrite _ _ => true
  | .wait _ => true

theorem opFits_of_mem {cmd : Instr} {p : Params} {mode : BitVec 2} {x : Slot} (hx : x ∈ programOf cmd p mode) :
    opFits cmd x.op = true := by
  have hall : (programOf cmd p mode).all (fun x => opFits cmd x.op) = true := by cases cmd <;> rfl
  exact List.all_eq_true.1 hall x hx

theorem opFits_exec {cmd : Instr} {f : Prim} : opFits cmd (.exec f) = true ↔ (f = .loadCal ↔ cmd = .loadCal) := by
  rw [opFits, beq_iff_eq, Bool.eq_iff_iff, beq_iff_eq, beq_iff_eq]

/-- A command's list is µops and then its one last Exec. -/
theorem programOf_eq_append (cmd : Instr) (p : Params) (mode : BitVec 2) :
    ∃ init b, programOf cmd p mode = init ++ [⟨b, .exec (lastExec cmd)⟩]
      ∧ ∀ x ∈ init, x.op ≠ .exec (lastExec cmd) := by
  refine ⟨(programOf cmd p mode).dropLast, (programOf cmd p mode).getLast?.bind (·.begins), by cases cmd <;> rfl, ?_⟩
  have hall : (programOf cmd p mode).dropLast.all (fun x => x.op != .exec (lastExec cmd)) = true := by
    cases cmd <;> rfl
  exact fun x hx => bne_iff_ne.1 (List.all_eq_true.1 hall x hx)

/-- The rest of a command's list is empty exactly after its last Exec. -/
theorem rest_eq_nil_iff {cmd : Instr} {p : Params} {mode : BitVec 2} {x : Slot} {rest : List Slot}
    (h : x :: rest <:+ programOf cmd p mode) : rest = [] ↔ x.op = .exec (lastExec cmd) := by
  obtain ⟨init, b, hprog, hinit⟩ := programOf_eq_append cmd p mode
  rw [hprog, List.suffix_concat_iff] at h
  obtain h | ⟨_ | ⟨y, ys⟩, hlist, hsuf⟩ := h
  · cases h
  · cases hlist
    simp
  · cases hlist
    simpa using hinit x (hsuf.subset List.mem_cons_self)

/-- No phase begins in LOAD_CAL's list. -/
theorem begins_loadCal {p : Params} {mode : BitVec 2} {x : Slot} (hx : x ∈ programOf .loadCal p mode) :
    x.begins = none := by
  obtain ⟨op, -, rfl⟩ := List.mem_map.1 hx
  rfl

/-- Each phase's data is produced by the phases before it, whatever was valid at the start (R220). -/
theorem programOf_ready (cmd : Instr) (p : Params) (mode : BitVec 2) (ut up b5 pv : Bool) :
    phasesReady ut up b5 pv (programOf cmd p mode) = true := by
  cases cmd with
  | loadCal | sampleT | sampleP | compT | compP | alt | slp => rfl
  | readTemperature => cases ut <;> rfl
  | readPressure => cases ut <;> cases up <;> cases b5 <;> rfl
  | readAltitude | readSealevel => cases ut <;> cases up <;> cases b5 <;> cases pv <;> rfl

theorem isTailOf_iff {x : Slot} {rest program : List Slot} :
    isTailOf (x :: rest) program = true ↔
      ∃ h, h :: rest <:+ program ∧ x.op = h.op ∧ (x.begins = none ∨ x.begins = h.begins) := by
  unfold isTailOf
  constructor
  · intro h
    split at h
    · next y ys h r heq hdrop =>
      cases heq
      simp only [Bool.and_eq_true, Bool.or_eq_true, beq_iff_eq] at h
      obtain ⟨⟨hop, hb⟩, rfl⟩ := h
      exact ⟨_, hdrop ▸ List.drop_suffix _ _, hop, hb⟩
    · cases h
  · rintro ⟨h, hsuf, hop, hb⟩
    have hdrop := List.suffix_iff_eq_drop.1 hsuf
    simp only [List.length_cons] at hdrop ⊢
    rw [← hdrop]
    simp [hop, hb]

theorem isTailOf_rest {x y : Slot} {rest program : List Slot} (h : isTailOf (x :: y :: rest) program = true) :
    isTailOf (y :: rest) program = true := by
  obtain ⟨_, hsuf, -, -⟩ := isTailOf_iff.1 h
  exact isTailOf_iff.2 ⟨y, (List.suffix_cons _ _).trans hsuf, rfl, .inr rfl⟩

theorem isTailOf_begun {x : Slot} {rest program : List Slot} (h : isTailOf (x :: rest) program = true) :
    isTailOf (⟨none, x.op⟩ :: rest) program = true := by
  obtain ⟨h, hsuf, hop, -⟩ := isTailOf_iff.1 h
  exact isTailOf_iff.2 ⟨h, hsuf, hop, .inl rfl⟩

theorem isTailOf_programOf (cmd : Instr) (p : Params) (mode : BitVec 2) :
    isTailOf (programOf cmd p mode) (programOf cmd p mode) = true := by
  obtain ⟨x, rest, hprog⟩ := List.exists_cons_of_ne_nil (l := programOf cmd p mode) (by
    obtain ⟨init, b, hprog, -⟩ := programOf_eq_append cmd p mode
    simp [hprog])
  rw [hprog]
  exact isTailOf_iff.2 ⟨x, List.suffix_rfl, rfl, .inr rfl⟩

/-! ### The invariant, part by part -/

/-- The registers hold their reset values as far as R34 asks. -/
def Blank (s : State) : Prop :=
  s.cal = calZero ∧ s.utValid = false ∧ s.upValid = false ∧ s.b5Valid = false ∧ s.tValid = false ∧ s.pValid = false
    ∧ s.altValid = false ∧ s.slpValid = false

/-- The part of `Coherent` that is about the registers alone. -/
structure Sound (s : State) : Prop where
  blank : s.calValid = false → Blank s
  up : s.up.toNat < 2 ^ (16 + s.mode.toNat)
  pres : s.pValid = true → 236 ≤ s.pres.toInt
  rxbuf : s.rxbuf.length ≤ 3

/-- The part of `Coherent` that is about a running command. -/
structure InCommand (cmd : Instr) (list : List Slot) (s : State) : Prop where
  tail : isTailOf list (programOf cmd s.params s.mode) = true
  calibrated : s.calValid = true ↔ cmd ≠ .loadCal
  err : s.err = .none
  inFlight : s.inFlight = true → headIsTransaction list = true
  ready : phasesReady s.utValid s.upValid s.b5Valid s.pValid list = true
  lastCmd : s.lastCmd = codeOf cmd
  pending : resultFlag cmd s ≠ some true

/-- The part of `Coherent` that is about an idle engine. -/
structure AtRest (s : State) : Prop where
  timer : s.timer = 0
  inFlight : s.inFlight = false
  told : ∀ cmd, isPublic cmd → resultTold cmd s = true

theorem calCoherent_run_iff {s : State} {cmd : Instr} {list : List Slot} (h : s.seq = .run cmd list) :
    calCoherent s = true ↔ (s.calValid = false → Blank s) ∧ (s.calValid = true ↔ cmd ≠ .loadCal) := by
  cases hc : s.calValid <;> simp [calCoherent, running, h, hc, Blank, and_assoc]

theorem calCoherent_idle_iff {s : State} (h : s.seq = .idle) :
    calCoherent s = true ↔ (s.calValid = false → Blank s) := by
  cases hc : s.calValid <;> simp [calCoherent, running, h, hc, Blank, and_assoc]

theorem presPositive_iff (s : State) : presPositive s = true ↔ (s.pValid = true → 236 ≤ s.pres.toInt) := by
  cases h : s.pValid <;> simp [presPositive, h]

theorem coherent_run_iff {s : State} {cmd : Instr} {list : List Slot} (h : s.seq = .run cmd list) :
    Coherent s ↔ Sound s ∧ InCommand cmd list s := by
  have hseq : seqLegal s = isTailOf list (programOf cmd s.params s.mode) := by simp only [seqLegal, h]
  have hrun : runCoherent s = true ↔ s.err = .none ∧ (s.inFlight = true → headIsTransaction list = true) := by
    cases hf : s.inFlight <;> simp [runCoherent, remaining, busy, h, hf]
  have hres : resultCoherent s = true ↔ s.lastCmd = codeOf cmd ∧ resultFlag cmd s ≠ some true := by
    simp [resultCoherent, running, h]
  have hrem : remaining s = list := by simp only [remaining, h]
  unfold Coherent
  rw [hseq, calCoherent_run_iff h, presPositive_iff, hrun, hres, hrem, upInRange, rxbufShort, decide_eq_true_iff,
    decide_eq_true_iff]
  constructor
  · rintro ⟨htail, ⟨hblank, hcal⟩, hup, hpres, ⟨herr, hfl⟩, hbuf, hready, hlast, hpend⟩
    exact ⟨⟨hblank, hup, hpres, hbuf⟩, ⟨htail, hcal, herr, hfl, hready, hlast, hpend⟩⟩
  · rintro ⟨⟨hblank, hup, hpres, hbuf⟩, ⟨htail, hcal, herr, hfl, hready, hlast, hpend⟩⟩
    exact ⟨htail, ⟨hblank, hcal⟩, hup, hpres, ⟨herr, hfl⟩, hbuf, hready, hlast, hpend⟩

theorem coherent_idle_iff {s : State} (h : s.seq = .idle) : Coherent s ↔ Sound s ∧ AtRest s := by
  have hseq : seqLegal s = true := by simp only [seqLegal, h]
  have hrun : runCoherent s = true ↔ s.timer = 0 ∧ s.inFlight = false := by simp [runCoherent, busy, h]
  have hres : resultCoherent s = true ↔ ∀ cmd, isPublic cmd → resultTold cmd s = true := by
    simp [resultCoherent, running, h, isPublic, and_assoc]
  have hrem : remaining s = [] := by simp only [remaining, h]
  unfold Coherent
  rw [calCoherent_idle_iff h, presPositive_iff, hrun, hres, hrem, upInRange, rxbufShort, decide_eq_true_iff,
    decide_eq_true_iff]
  constructor
  · rintro ⟨-, hblank, hup, hpres, ⟨htimer, hfl⟩, hbuf, -, htold⟩
    exact ⟨⟨hblank, hup, hpres, hbuf⟩, ⟨htimer, hfl, htold⟩⟩
  · rintro ⟨⟨hblank, hup, hpres, hbuf⟩, ⟨htimer, hfl, htold⟩⟩
    exact ⟨hseq, hblank, hup, hpres, ⟨htimer, hfl⟩, hbuf, rfl, htold⟩

/-- Settles O49: an idle engine over blank registers. -/
theorem resetIsCoherent : Obligations.ResetIsCoherent := by
  intro mode devAddr params
  have hblank : Blank (.resetWith mode devAddr params) := ⟨rfl, rfl, rfl, rfl, rfl, rfl, rfl, rfl⟩
  refine (coherent_idle_iff rfl).2 ⟨⟨fun _ => hblank, Nat.two_pow_pos _, nofun, le_rfl⟩, rfl, rfl, ?_⟩
  rintro cmd (rfl | rfl | rfl | rfl) <;> rfl

/-! ### Results of public commands -/

theorem decodeCode_codeOf (i : Instr) : decodeCode (codeOf i) = .ok i := by
  cases i <;> rfl

theorem codeOf_injective {i j : Instr} (h : codeOf i = codeOf j) : i = j :=
  Except.ok.inj ((decodeCode_codeOf i).symm.trans ((congrArg decodeCode h).trans (decodeCode_codeOf j)))

theorem resultTold_iff {cmd : Instr} {s : State} :
    resultTold cmd s = true ↔ (s.lastCmd = codeOf cmd → resultFlag cmd s = some (s.err == .none)) := by
  simp [resultTold, Decidable.imp_iff_not_or]

/-- Only the last command has to tell its result. -/
theorem resultTold_of_lastCmd {cmd : Instr} {s : State} (hlast : s.lastCmd = codeOf cmd)
    (hflag : ∀ v, resultFlag cmd s = some v → v = (s.err == .none)) (c : Instr) (hc : isPublic c) :
    resultTold c s = true := by
  refine resultTold_iff.2 fun hcode => ?_
  obtain rfl := codeOf_injective (hlast.symm.trans hcode)
  obtain ⟨v, hv⟩ : ∃ v, resultFlag cmd s = some v := by obtain rfl | rfl | rfl | rfl := hc <;> exact ⟨_, rfl⟩
  rw [hv, hflag v hv]

/-- Until its last Exec commits, a step sets no result of the running command. -/
theorem resultFlag_of_writes {b f : Option Prim} {s u : State} (cmd : Instr) (hw : Writes b f s u)
    (hf : f ≠ some (lastExec cmd)) (h : resultFlag cmd u = some true) : resultFlag cmd s = some true := by
  cases cmd with
  | readTemperature => exact congrArg some ((hw.tValid.1 (Option.some.inj h)).resolve_right hf).1
  | readPressure => exact congrArg some ((hw.pValid.1 (Option.some.inj h)).resolve_right hf).1
  | readAltitude => exact congrArg some ((hw.altValid.1 (Option.some.inj h)).resolve_right hf).1
  | readSealevel => exact congrArg some ((hw.slpValid.1 (Option.some.inj h)).resolve_right hf).1
  | loadCal | sampleT | sampleP | compT | compP | alt | slp => cases h

/-- The last Exec of a public command sets its result. -/
theorem resultFlag_of_last_commit {b : Option Prim} {s u : State} (cmd : Instr)
    (hw : Writes b (some (lastExec cmd)) s u) {v : Bool} (h : resultFlag cmd u = some v) : v = true := by
  cases cmd with
  | readTemperature => exact (Option.some.inj h).symm.trans (hw.tValid.2 (.inr rfl))
  | readPressure => exact (Option.some.inj h).symm.trans (hw.pValid.2 (.inr rfl))
  | readAltitude => exact (Option.some.inj h).symm.trans (hw.altValid.2 (.inr rfl))
  | readSealevel => exact (Option.some.inj h).symm.trans (hw.slpValid.2 (.inr rfl))
  | loadCal | sampleT | sampleP | compT | compP | alt | slp => cases h

/-! ### The errors of an Exec -/

/-- A pipeline stops with one of the three errors of R180. -/
def PipelineErrors {α : Type} (x : Except ArithError α) : Prop :=
  ∀ e, x = .error e → e.code = .range ∨ e.code = .div0T ∨ e.code = .div0P

theorem PipelineErrors.ok {α : Type} (a : α) : PipelineErrors (.ok a) := nofun

theorem PipelineErrors.error {α : Type} {c : ErrCode} {st : PipeStep} (h : c = .range ∨ c = .div0T ∨ c = .div0P) :
    PipelineErrors (.error ⟨c, st⟩ : Except ArithError α) :=
  fun _ he => Except.error.inj he ▸ h

theorem PipelineErrors.s32 (st : PipeStep) (v : Int) : PipelineErrors (s32 st v) := by
  unfold Machine.s32
  split
  · exact .ok v
  · exact .error (.inl rfl)

theorem PipelineErrors.u32 (st : PipeStep) (v : Int) : PipelineErrors (u32 st v) := by
  unfold Machine.u32
  split
  · exact .ok v
  · exact .error (.inl rfl)

theorem PipelineErrors.bind {α β : Type} {x : Except ArithError α} {f : α → Except ArithError β}
    (hx : PipelineErrors x) (hf : ∀ a, PipelineErrors (f a)) : PipelineErrors (x >>= f) := by
  cases x with
  | ok a => exact hf a
  | error e => exact fun _ h => hx _ (congrArg _ (Except.error.inj h))

theorem pipelineErrors_compT (ut ac5 ac6 mc md : Int) : PipelineErrors (compT ut ac5 ac6 mc md) := by
  refine .bind (.s32 _ _) fun _ => .bind (.s32 _ _) fun _ => .bind (.s32 _ _) fun _ => .bind (.s32 _ _) fun _ => ?_
  split
  · exact .error (.inr (.inl rfl))
  · exact .bind (.s32 _ _) fun _ => .bind (.s32 _ _) fun _ => .ok _

theorem pipelineErrors_step11 (b7 b4 : Int) : PipelineErrors (step11 b7 b4) := by
  unfold step11
  split
  · exact .error (.inr (.inr rfl))
  · split
    · exact .bind (.u32 _ _) fun _ => .s32 _ _
    · exact .bind (.u32 _ _) fun _ => .s32 _ _

theorem pipelineErrors_compP (b5 up : Int) (mode : Nat) (ac1 ac2 ac3 ac4 b1 b2 : Int) :
    PipelineErrors (compP b5 up mode ac1 ac2 ac3 ac4 b1 b2) := by
  refine .bind ?stage1 fun _ => .bind ?stage2 fun _ => .bind ?stage3 fun _ =>
    .bind (pipelineErrors_step11 _ _) fun _ => ?stage4
  case stage1 =>
    exact .bind (.s32 _ _) fun _ => .bind (.s32 _ _) fun _ => .bind (.s32 _ _) fun _ => .bind (.s32 _ _) fun _ =>
      .bind (.s32 _ _) fun _ => .bind (.s32 _ _) fun _ => .bind (.s32 _ _) fun _ => .bind (.s32 _ _) fun _ =>
      .bind (.s32 _ _) fun _ => .ok _
  case stage2 =>
    exact .bind (.s32 _ _) fun _ => .bind (.s32 _ _) fun _ => .bind (.s32 _ _) fun _ => .bind (.s32 _ _) fun _ =>
      .bind (.u32 _ _) fun _ => .bind (.u32 _ _) fun _ => .ok _
  case stage3 => exact .bind (.u32 _ _) fun _ => .u32 _ _
  case stage4 =>
    exact .bind (.s32 _ _) fun _ => .bind (.s32 _ _) fun _ => .bind (.s32 _ _) fun _ => .bind (.s32 _ _) fun _ =>
      .bind (.s32 _ _) fun _ => .s32 _ _

theorem commitPrim_error {f : Prim} {s : State} {e : ErrCode} (h : commitPrim f s = .error e) :
    e = .range ∨ e = .div0T ∨ e = .div0P := by
  cases f with
  | loadCal | sampleT | sampleP | alt | slp => cases h
  | compT =>
    change commitCompT s = _ at h
    unfold commitCompT at h
    split at h
    · next e' hc => cases h; exact pipelineErrors_compT _ _ _ _ _ e' hc
    · cases h
  | compP =>
    change commitCompP s = _ at h
    unfold commitCompP at h
    split at h
    · next e' hc => cases h; exact pipelineErrors_compP _ _ _ _ _ _ _ _ _ e' hc
    · cases h

/-! ### The engine's own fields after a µop -/

theorem phaseStart_frame (b : Option Prim) (s : State) : (phaseStart b s).rxbuf = s.rxbuf
    ∧ (phaseStart b s).err = s.err ∧ (phaseStart b s).timer = s.timer ∧ (phaseStart b s).inFlight = s.inFlight := by
  cases b with
  | none => exact ⟨rfl, rfl, rfl, rfl⟩
  | some p => simp [phaseStart, startClears_eq]

section

variable {cmd : Instr} {op : UOp} {s u : State} {r : Option ErrCode}

/-- A µop raises an error that R242 does not refuse a command with. -/
theorem uopEffect_error {e : ErrCode} (h : uopEffect cmd op s = some (some e, u)) :
    e = .transport ∨ e = .range ∨ e = .div0T ∨ e = .div0P := by
  obtain ⟨-, he | he, -⟩ | ⟨_, _, _, _, _, -, he, -⟩ | ⟨_, -, he, -⟩ | ⟨_, _, -, he, -⟩ | ⟨f, e, -, he, hc, -⟩ :=
    uopEffect_cases h <;> cases he
  · exact .inl rfl
  · exact .inr (commitPrim_error hc)

theorem uopEffect_err (h : uopEffect cmd op s = some (r, u)) : u.err = s.err := by
  obtain ⟨-, -, _, _, rfl⟩ | ⟨_, dst, _, _, _, -, -, rfl⟩ | ⟨_, -, -, rfl⟩ | ⟨f, v, -, -, hc, rfl⟩
    | ⟨_, _, -, -, -, rfl⟩ := uopEffect_cases h
  · rfl
  · cases dst <;> rfl
  · rfl
  · rw [commitPrim_frame hc]
  · rfl

/-- Only a Wait sets the timer. -/
theorem uopEffect_timer (h : uopEffect cmd op s = some (r, u)) :
    u.timer = s.timer ∨ (r = none ∧ commitOf op = none) := by
  obtain ⟨-, -, _, _, rfl⟩ | ⟨_, dst, _, _, _, -, -, rfl⟩ | ⟨_, rfl, rfl, -⟩ | ⟨f, v, -, -, hc, rfl⟩
    | ⟨_, _, -, -, -, rfl⟩ := uopEffect_cases h
  · exact .inl rfl
  · cases dst <;> exact .inl rfl
  · exact .inr ⟨rfl, rfl⟩
  · rw [commitPrim_frame hc]; exact .inl rfl
  · exact .inl rfl

/-- A µop with an effect leaves no transaction in flight. -/
theorem uopEffect_inFlight {rest : List Slot} (hs : s.inFlight = true → headIsTransaction (⟨none, op⟩ :: rest) = true)
    (h : uopEffect cmd op s = some (r, u)) : u.inFlight = false := by
  obtain ⟨-, -, _, _, rfl⟩ | ⟨_, dst, _, _, _, -, -, rfl⟩ | ⟨_, rfl, -, rfl⟩ | ⟨f, v, rfl, -, hc, rfl⟩
    | ⟨_, _, rfl, -, -, rfl⟩ := uopEffect_cases h
  · rfl
  · cases dst <;> rfl
  · exact Bool.eq_false_iff.2 (Bool.false_ne_true ∘ hs)
  · rw [commitPrim_frame hc]; exact Bool.eq_false_iff.2 (Bool.false_ne_true ∘ hs)
  · exact Bool.eq_false_iff.2 (Bool.false_ne_true ∘ hs)

/-- Only a read into RXBUF fills it, with as many bytes as it asks for. -/
theorem uopEffect_rxbuf (h : uopEffect cmd op s = some (r, u)) :
    u.rxbuf = s.rxbuf ∨ ∃ reg, op = .txRead reg u.rxbuf.length .rxbuf := by
  obtain ⟨-, -, _, _, rfl⟩ | ⟨reg, dst, bs, _, _, rfl, -, rfl⟩ | ⟨_, -, -, rfl⟩ | ⟨f, v, -, -, hc, rfl⟩
    | ⟨_, _, -, -, -, rfl⟩ := uopEffect_cases h
  · exact .inl rfl
  · cases dst with
    | stg k => exact .inl rfl
    | rxbuf => exact .inr ⟨reg, rfl⟩
  · exact .inl rfl
  · rw [commitPrim_frame hc]; exact .inl rfl
  · exact .inl rfl

/-- Only a transaction can be without an effect. -/
theorem headIsTransaction_of_no_effect (h : uopEffect cmd op s = none) (rest : List Slot) :
    headIsTransaction (⟨none, op⟩ :: rest) = true := by
  cases op with
  | txWrite | txRead => rfl
  | wait => cases h
  | exec f => cases hc : commitPrim f s <;> simp only [uopEffect, hc] at h <;> cases h

theorem up_of_sampleP (h : uopEffect cmd (.exec .sampleP) s = some (none, u)) :
    u.up.toNat < 2 ^ (16 + s.mode.toNat) := by
  cases h
  exact (BitVec.toNat_ofNat _ _ ▸ Nat.mod_le _ _).trans_lt (rawPressure_lt s.mode s.rxbuf)

theorem pres_of_compP (h : uopEffect cmd (.exec .compP) s = some (none, u)) : 236 ≤ u.pres.toInt := by
  cases hc : commitPrim .compP s <;> simp only [uopEffect, hc] at h <;> cases h
  obtain ⟨pres, hp, rfl⟩ := commitCompP_ok hc
  obtain ⟨hlow, hhigh⟩ := compP_ge hp
  exact (toInt_ofInt32 (by omega) hhigh).symm ▸ hlow

end

/-! ### Engine steps keep the invariant -/

theorem none_bne_some (p : Prim) : ((none : Option Prim) != some p) = true := rfl

theorem phasesReady_begun (ut up b5 p : Bool) (op : UOp) (rest : List Slot) :
    phasesReady ut up b5 p (⟨none, op⟩ :: rest) = phasesReady (ut || op == .exec .sampleT)
      (up || op == .exec .sampleP) (b5 || op == .exec .compT) (p || op == .exec .compP) rest := by
  simp [phasesReady, none_bne_some]

theorem headIsTransaction_op (x : Slot) (rest : List Slot) :
    headIsTransaction (x :: rest) = headIsTransaction (⟨none, x.op⟩ :: rest) := by
  obtain ⟨b, op⟩ := x
  cases op <;> rfl

/-- The registers stay sound under a step's writes, given the values of the two commits that `Sound` bounds. -/
theorem Sound.of_writes {b f : Option Prim} {s u : State} (hs : Sound s) (hw : Writes b f s u)
    (hcal : f ≠ none → u.calValid = true) (hup : f = some .sampleP → u.up.toNat < 2 ^ (16 + u.mode.toNat))
    (hpres : f = some .compP → 236 ≤ u.pres.toInt) (hbuf : u.rxbuf.length ≤ 3) : Sound u where
  blank hu := by
    have hsu : s.calValid = false :=
      Bool.eq_false_iff.2 fun h => Bool.false_ne_true (hu.symm.trans (hw.calValid.2 (.inl h)))
    obtain rfl : f = none := by_contra fun h => Bool.false_ne_true (hu.symm.trans (hcal h))
    obtain ⟨hc, hut, hup, hb5, ht, hp, halt, hslp⟩ := hs.blank hsu
    refine ⟨(hw.cal nofun).trans hc, ?_⟩
    simp [Bool.eq_false_iff, hw.utValid, hw.upValid, hw.b5Valid, hw.tValid, hw.pValid, hw.altValid, hw.slpValid,
      hut, hup, hb5, ht, hp, halt, hslp]
  up := by
    by_cases hf : f = some .sampleP
    · exact hup hf
    · rw [hw.up hf, hw.mode]
      exact hs.up
  pres hp := by
    by_cases hf : f = some .compP
    · exact hpres hf
    · rw [hw.pres hf]
      exact hs.pres ((hw.pValid.1 hp).resolve_right hf).1
  rxbuf := hbuf

/-- A step without a commit keeps the registers sound. -/
theorem Sound.of_start {b : Option Prim} {s u : State} (hs : Sound s) (hw : Writes b none s u)
    (hbuf : u.rxbuf.length ≤ 3) : Sound u :=
  hs.of_writes hw (absurd rfl) nofun nofun hbuf

section

variable {cmd : Instr} {x : Slot} {rest : List Slot} {s : State}

theorem InCommand.exists_slot (h : InCommand cmd (x :: rest) s) :
    ∃ y, y :: rest <:+ programOf cmd s.params s.mode ∧ x.op = y.op ∧ (x.begins = none ∨ x.begins = y.begins) :=
  isTailOf_iff.1 h.tail

theorem InCommand.opFits (h : InCommand cmd (x :: rest) s) : opFits cmd x.op = true := by
  obtain ⟨y, hsuf, hop, -⟩ := h.exists_slot
  exact hop ▸ opFits_of_mem (hsuf.subset List.mem_cons_self)

theorem InCommand.rest_eq_nil_iff (h : InCommand cmd (x :: rest) s) : rest = [] ↔ x.op = .exec (lastExec cmd) := by
  obtain ⟨y, hsuf, hop, -⟩ := h.exists_slot
  exact hop ▸ Proofs.rest_eq_nil_iff hsuf

/-- The phases of an accepted command find their preconditions met (R220). -/
theorem InCommand.phaseRefusal_eq_none (h : InCommand cmd (x :: rest) s) : phaseRefusal x.begins s = none := by
  cases hb : x.begins with
  | none => rfl
  | some p =>
    have hcal : s.calValid = true := h.calibrated.2 <| by
      rintro rfl
      obtain ⟨y, hsuf, -, hxy⟩ := h.exists_slot
      simp [begins_loadCal (hsuf.subset List.mem_cons_self), hb] at hxy
    have hready := h.ready
    simp only [phasesReady, hb, Bool.and_eq_true] at hready
    obtain ⟨hneeds, -⟩ := hready
    cases p <;> simp_all [phaseRefusal, refusal, commandOfPhase]

/-- A phase begins within its command. -/
theorem InCommand.begin (h : InCommand cmd (x :: rest) s) :
    InCommand cmd (⟨none, x.op⟩ :: rest) (phaseStart x.begins s) := by
  have hw := phaseStart_writes x.begins s
  obtain ⟨-, herr, -, hfl⟩ := phaseStart_frame x.begins s
  have hut : (phaseStart x.begins s).utValid = (s.utValid && x.begins != some .sampleT && x.begins != some .compT) :=
    Bool.eq_iff_iff.2 (by simp [hw.utValid, and_assoc])
  have hup : (phaseStart x.begins s).upValid = (s.upValid && x.begins != some .sampleP && x.begins != some .compP) :=
    Bool.eq_iff_iff.2 (by simp [hw.upValid, and_assoc])
  have hb5 : (phaseStart x.begins s).b5Valid = (s.b5Valid && x.begins != some .compT && x.begins != some .compP) :=
    Bool.eq_iff_iff.2 (by simp [hw.b5Valid, and_assoc])
  have hp : (phaseStart x.begins s).pValid = (s.pValid && x.begins != some .compP) :=
    Bool.eq_iff_iff.2 (by simp [hw.pValid])
  have hready := h.ready
  simp only [phasesReady, Bool.and_eq_true] at hready
  obtain ⟨-, hready⟩ := hready
  exact {
    tail := by rw [hw.params, hw.mode]; exact isTailOf_begun h.tail
    calibrated := hw.calValid.trans ((or_iff_left nofun).trans h.calibrated)
    err := herr.trans h.err
    inFlight := fun hf => (headIsTransaction_op x rest).symm.trans (h.inFlight (hfl ▸ hf))
    ready := by rw [phasesReady_begun, hut, hup, hb5, hp]; exact hready
    lastCmd := hw.lastCmd.trans h.lastCmd
    pending := h.pending ∘ resultFlag_of_writes cmd hw nofun }

end

section

variable {cmd : Instr} {op : UOp} {rest : List Slot} {s u : State} {r : Option ErrCode}

theorem InCommand.rxbuf_short (h : InCommand cmd (⟨none, op⟩ :: rest) s) (hs : Sound s)
    (heff : uopEffect cmd op s = some (r, u)) : u.rxbuf.length ≤ 3 := by
  obtain hsame | ⟨reg, rfl⟩ := uopEffect_rxbuf heff
  · exact hsame ▸ hs.rxbuf
  · exact of_decide_eq_true h.opFits

/-- Every µop keeps the registers sound. -/
theorem InCommand.sound_done (h : InCommand cmd (⟨none, op⟩ :: rest) s) (hs : Sound s)
    (heff : uopEffect cmd op s = some (none, u)) : Sound u := by
  have hw := uopEffect_done_writes heff
  refine hs.of_writes hw (fun hf => ?_) (fun hf => ?_) (fun hf => ?_) (h.rxbuf_short hs heff)
  · obtain ⟨f, hf⟩ := Option.ne_none_iff_exists'.1 hf
    obtain rfl := commitOf_eq_some.1 hf
    by_cases hload : f = .loadCal
    · exact hw.calValid.2 (.inr (congrArg some hload))
    · exact hw.calValid.2 (.inl (h.calibrated.2 (mt (opFits_exec.1 h.opFits).2 hload)))
  · obtain rfl := commitOf_eq_some.1 hf
    rw [hw.mode]
    exact up_of_sampleP heff
  · obtain rfl := commitOf_eq_some.1 hf
    exact pres_of_compP heff

theorem coherent_hold (h : InCommand cmd (⟨none, op⟩ :: rest) s) (hs : Sound s) (heff : uopEffect cmd op s = none) :
    Coherent (holdTransaction cmd op rest s) :=
  (coherent_run_iff rfl).2 ⟨{ hs with }, { h with inFlight := fun _ => headIsTransaction_of_no_effect heff rest }⟩

theorem coherent_raise {e : ErrCode} (h : InCommand cmd (⟨none, op⟩ :: rest) s) (hs : Sound s) (htimer : s.timer = 0)
    (heff : uopEffect cmd op s = some (some e, u)) : Coherent (raiseError e u) := by
  have hw := uopEffect_raise_writes heff
  have hfl := uopEffect_inFlight h.inFlight heff
  have herr : (e == .none) = false := by obtain rfl | rfl | rfl | rfl := uopEffect_error heff <;> rfl
  refine (coherent_idle_iff rfl).2 ⟨{ hs.of_start hw (h.rxbuf_short hs heff) with }, ?_, hfl, ?_⟩
  · exact ((uopEffect_timer heff).resolve_right nofun).trans htimer
  · refine resultTold_of_lastCmd (hw.lastCmd.trans h.lastCmd) fun v hv => ?_
    cases v with
    | true => exact absurd (resultFlag_of_writes cmd hw nofun hv) h.pending
    | false => exact herr.symm

/-- The last µop of the list ends the command with its result. -/
theorem coherent_finish (h : InCommand cmd [⟨none, op⟩] s) (hs : Sound s) (htimer : s.timer = 0)
    (heff : uopEffect cmd op s = some (none, u)) : Coherent (finish u) := by
  obtain rfl := h.rest_eq_nil_iff.1 rfl
  have hw : Writes none (some (lastExec cmd)) s u := uopEffect_done_writes heff
  have hfl := uopEffect_inFlight h.inFlight heff
  refine (coherent_idle_iff rfl).2 ⟨{ h.sound_done hs heff with }, ?_, hfl, ?_⟩
  · exact ((uopEffect_timer heff).resolve_right nofun).trans htimer
  · exact resultTold_of_lastCmd (hw.lastCmd.trans h.lastCmd) fun v hv => resultFlag_of_last_commit cmd hw hv

/-- An earlier µop leaves the command within the rest of its list. -/
theorem coherent_next {y : Slot} (h : InCommand cmd (⟨none, op⟩ :: y :: rest) s) (hs : Sound s)
    (heff : uopEffect cmd op s = some (none, u)) : Coherent { u with seq := .run cmd (y :: rest) } := by
  have hw := uopEffect_done_writes heff
  have hnotlast : commitOf op ≠ some (lastExec cmd) := fun hf =>
    List.cons_ne_nil y rest (h.rest_eq_nil_iff.2 (commitOf_eq_some.1 hf))
  have hnotload : commitOf op ≠ some .loadCal := fun hf => by
    obtain rfl := commitOf_eq_some.1 hf
    obtain rfl := (opFits_exec.1 h.opFits).1 rfl
    exact hnotlast rfl
  have hfl := uopEffect_inFlight h.inFlight heff
  have hut : u.utValid = (s.utValid || op == .exec .sampleT) :=
    Bool.eq_iff_iff.2 (by simp [hw.utValid, commitOf_eq_some])
  have hup : u.upValid = (s.upValid || op == .exec .sampleP) :=
    Bool.eq_iff_iff.2 (by simp [hw.upValid, commitOf_eq_some])
  have hb5 : u.b5Valid = (s.b5Valid || op == .exec .compT) :=
    Bool.eq_iff_iff.2 (by simp [hw.b5Valid, commitOf_eq_some])
  have hp : u.pValid = (s.pValid || op == .exec .compP) :=
    Bool.eq_iff_iff.2 (by simp [hw.pValid, commitOf_eq_some])
  have hready := h.ready
  rw [phasesReady_begun, ← hut, ← hup, ← hb5, ← hp] at hready
  exact (coherent_run_iff rfl).2 ⟨{ h.sound_done hs heff with }, {
    tail := by rw [hw.params, hw.mode]; exact isTailOf_rest h.tail
    calibrated := hw.calValid.trans ((or_iff_left hnotload).trans h.calibrated)
    err := (uopEffect_err heff).trans h.err
    inFlight := fun hf => absurd (hfl.symm.trans hf) Bool.false_ne_true
    ready := hready
    lastCmd := hw.lastCmd.trans h.lastCmd
    pending := h.pending ∘ resultFlag_of_writes (u := u) cmd hw hnotlast }⟩

theorem coherent_runOp (h : InCommand cmd (⟨none, op⟩ :: rest) s) (hs : Sound s) (htimer : s.timer = 0) :
    Coherent (runOp cmd op rest s) := by
  obtain ⟨heff, hrun⟩ | ⟨e, u, heff, hrun⟩ | ⟨u, heff, hrun⟩ := runOp_cases cmd op rest s <;> rw [hrun]
  · exact coherent_hold h hs heff
  · exact coherent_raise h hs htimer heff
  · cases rest with
    | nil => exact coherent_finish h hs htimer heff
    | cons y rest => exact coherent_next h hs heff

end

theorem coherent_engineStep {s : State} (h : Coherent s) : Coherent (engineStep s) := by
  rcases hseq : s.seq with _ | ⟨cmd, _ | ⟨slot, rest⟩⟩
  · obtain ⟨hs, hrest⟩ := (coherent_idle_iff hseq).1 h
    rw [engineStep_idle hseq]
    exact (coherent_idle_iff (s := { s with timer := 0 }) hseq).2 ⟨{ hs with }, { hrest with timer := rfl }⟩
  · obtain ⟨-, hc⟩ := (coherent_run_iff hseq).1 h
    cases hc.tail
  · obtain ⟨hs, hc⟩ := (coherent_run_iff hseq).1 h
    have hs₀ : Sound { s with timer := 0 } := { hs with }
    have hc₀ : InCommand cmd (slot :: rest) { s with timer := 0 } := { hc with }
    obtain ⟨hbuf, -, htimer, -⟩ := phaseStart_frame slot.begins { s with timer := 0 }
    rw [engineStep_run hseq]
    simp only [runSlot, beginPhase_of_ready hc₀.phaseRefusal_eq_none]
    exact coherent_runOp hc₀.begin (hs₀.of_start (phaseStart_writes _ _) ((congrArg _ hbuf).trans_le hs.rxbuf)) htimer

/-! ### Host accesses keep the invariant -/

theorem refusal_error {i : Instr} {s : State} {e : ErrCode} (h : refusal i s = some e) : (e == .none) = false := by
  rw [← Bool.not_eq_true, beq_iff_eq]
  rintro rfl
  cases i <;> grind [refusal]

/-- A public command is refused only where no result is valid (R243, R34). -/
theorem resultFlag_of_refused {i : Instr} {s : State} {e : ErrCode} (hs : Sound s) (h : refusal i s = some e) {v : Bool}
    (hv : resultFlag i s = some v) : v = false := by
  have hcal (hpublic : refusal i s = if s.calValid then none else some .nocal) : s.calValid = false := by
    cases hc : s.calValid with
    | false => rfl
    | true => simp [hpublic, hc] at h
  cases i with
  | readTemperature | readPressure | readAltitude | readSealevel =>
    obtain ⟨-, -, -, -, ht, hp, halt, hslp⟩ := hs.blank (hcal rfl)
    cases hv
    assumption
  | loadCal | sampleT | sampleP | compT | compP | alt | slp => cases hv

theorem coherent_refuse {s : State} {code : Byte} {e : ErrCode} (hidle : s.seq = .idle) (h : Coherent s)
    (htold : ∀ cmd, isPublic cmd → resultTold cmd (refuseCommand code e s) = true) :
    Coherent (refuseCommand code e s) := by
  obtain ⟨hs, hrest⟩ := (coherent_idle_iff hidle).1 h
  exact (coherent_idle_iff (s := refuseCommand code e s) hidle).2 ⟨{ hs with }, { hrest with told := htold }⟩

/-- A command is accepted only in its own half of the life of the calibration (R35, R243). -/
theorem calibrated_of_accepted {i : Instr} {s : State} (h : refusal i s = none) : s.calValid = true ↔ i ≠ .loadCal := by
  cases hc : s.calValid <;> cases i <;> simp_all [refusal]

theorem coherent_accept {s : State} {i : Instr} (hidle : s.seq = .idle) (h : Coherent s) (hok : refusal i s = none) :
    Coherent (acceptCommand i (startClears i) (programOf i s.params s.mode) s) := by
  obtain ⟨hs, hrest⟩ := (coherent_idle_iff hidle).1 h
  have hcal := calibrated_of_accepted hok
  simp only [acceptCommand, startClears_eq]
  refine (coherent_run_iff rfl).2 ⟨?_, ?_⟩
  · exact {
      blank := fun hc => by
        obtain ⟨hcal, hut, hup, hb5, ht, hp, halt, hslp⟩ := hs.blank hc
        exact ⟨hcal, by simp [hut, hup, hb5, ht, hp, halt, hslp]⟩
      up := hs.up
      pres := fun hp => hs.pres (Bool.and_eq_true_iff.1 hp).2
      rxbuf := hs.rxbuf }
  · exact {
      tail := isTailOf_programOf i s.params s.mode
      calibrated := hcal
      err := rfl
      inFlight := fun hf => absurd (hrest.inFlight.symm.trans hf) Bool.false_ne_true
      ready := programOf_ready i s.params s.mode _ _ _ _
      lastCmd := rfl
      pending := by cases i <;> exact nofun }

theorem coherent_issueCommand {s : State} (i : Instr) (h : Coherent s) :
    Coherent (issueCommand i (refusal i s) (startClears i) (programOf i s.params s.mode) s) := by
  obtain ⟨-, hissue⟩ | ⟨hidle, e, href, hissue⟩ | ⟨hidle, hok, hissue⟩ :=
    issueCommand_cases i (refusal i s) (startClears i) (programOf i s.params s.mode) s <;> rw [hissue]
  · exact h
  · obtain ⟨hs, -⟩ := (coherent_idle_iff hidle).1 h
    refine coherent_refuse hidle h (resultTold_of_lastCmd rfl fun v hv => ?_)
    exact (resultFlag_of_refused hs href hv).trans (refusal_error href).symm
  · exact coherent_accept hidle h hok

theorem eq_of_decodeIndex_cmd {idx : Byte} (h : decodeIndex idx = some .cmd) : idx = indexOf .cmd := by
  unfold decodeIndex at h
  split at h <;> cases h
  next h0 => exact BitVec.eq_of_toNat_eq h0

/-- The last host write's code, where it is no command's, asks for no result. -/
theorem resultTold_of_illegal {s : State} {code : Byte} (hlast : s.lastCmd = code) (hcode : ∀ i, code ≠ codeOf i)
    (cmd : Instr) : resultTold cmd s = true :=
  resultTold_iff.2 fun h => absurd (hlast.symm.trans h) (hcode cmd)

theorem coherent_issueIllegal {s : State} {code : Byte} (h : Coherent s) (hcode : ∀ i, code ≠ codeOf i) :
    Coherent (issueIllegal code s) := by
  unfold issueIllegal
  split
  · exact h
  · next hbusy =>
    have hidle : s.seq = .idle := by_contra fun hne => hbusy (busy_eq_true hne)
    exact coherent_refuse hidle h fun cmd _ => resultTold_of_illegal rfl hcode cmd

theorem coherent_writeOther {s : State} {idx : Byte} {data : BitVec 64} (h : Coherent s)
    (hc : commandOf idx data = none) : Coherent (writeOther idx data s).2 := by
  unfold writeOther
  split
  · next hidx =>
    obtain rfl := eq_of_decodeIndex_cmd hidx
    refine coherent_issueIllegal h fun i hi => ?_
    have hsome := commandOf_legal (data := data) (hi ▸ decodeCode_codeOf i)
    cases hc.symm.trans hsome
  · cases busy s <;> exact h
  · cases busy s <;> exact h
  all_goals exact h

theorem coherent_elapseTime {s : State} (us : Nat) (h : Coherent s) : Coherent (elapseTime us s) := by
  cases hseq : s.seq with
  | idle =>
    obtain ⟨hs, hrest⟩ := (coherent_idle_iff hseq).1 h
    exact (coherent_idle_iff (s := elapseTime us s) hseq).2
      ⟨{ hs with }, { hrest with timer := Nat.sub_eq_zero_of_le (hrest.timer.trans_le us.zero_le) }⟩
  | run cmd list =>
    obtain ⟨hs, hc⟩ := (coherent_run_iff hseq).1 h
    exact (coherent_run_iff (s := elapseTime us s) hseq).2 ⟨{ hs with }, { hc with }⟩

/-! ### Every step -/

/-- A step is the stimulus at the head of the agenda, or the engine's where there is none (R77). -/
theorem step_eq_stimulusStep (s : State) : ∃ x later, step s = stimulusStep x { s with agenda := later }
    ∧ (s.agenda = [] ∧ x = .engine ∨ s.agenda = x :: later) := by
  cases ha : s.agenda with
  | nil => exact ⟨.engine, [], by rw [step_of_agenda_nil ha, ← ha]; rfl, .inl ⟨rfl, rfl⟩⟩
  | cons x later => exact ⟨x, later, step_of_agenda_cons ha, .inr rfl⟩

/-- A host write is the command it issues, or the access of another register (R73, R242). -/
theorem stimulusStep_hostWrite (idx : Byte) (data : BitVec 64) (s : State) :
    (∃ i, stimulusStep (.hostWrite idx data) s = .next (record (.hostWrite idx data .ok)
        (issueCommand i (refusal i s) (startClears i) (programOf i s.params s.mode) s)))
      ∨ commandOf idx data = none ∧ stimulusStep (.hostWrite idx data) s = .next (hostWriteOther idx data s) := by
  cases hc : commandOf idx data with
  | some i => exact .inl ⟨i, by simp only [stimulusStep, hc, exec_eq_issueCommand, recordIssue]⟩
  | none => exact .inr ⟨rfl, by simp only [stimulusStep, hc]⟩

theorem coherent_stimulusStep {s t : State} (x : Stimulus) (h : Coherent s) (hstep : stimulusStep x s = .next t) :
    Coherent t := by
  cases x with
  | hostRead idx => cases hstep; exact h
  | hostWrite idx data =>
    obtain ⟨i, hw⟩ | ⟨hc, hw⟩ := stimulusStep_hostWrite idx data s <;> cases hw.symm.trans hstep
    · exact coherent_issueCommand i h
    · exact coherent_writeOther h hc
  | poll =>
    cases hstep
    unfold pollTurn
    cases busy s <;> exact h
  | engine => cases hstep; exact coherent_engineStep h
  | elapse us => cases hstep; exact coherent_elapseTime us h
  | reset mode devAddr => cases hstep; exact resetIsCoherent mode devAddr s.params

/-- Settles O50: the stimulus at the head of the agenda keeps the invariant (`coherent_stimulusStep`), the engine's
by beginning a phase (`InCommand.begin`) and running a µop (`coherent_runOp`). -/
theorem everyStepKeepsCoherence : Obligations.EveryStepKeepsCoherence := by
  intro s t h hstep
  obtain ⟨x, later, hx, -⟩ := step_eq_stimulusStep s
  exact coherent_stimulusStep (s := { s with agenda := later }) x h (hx.symm.trans hstep)

/-- The calibration and the construction inputs are the same (R31 to R34). -/
def SameConfig (s t : State) : Prop :=
  t.cal = s.cal ∧ t.calValid = s.calValid ∧ t.mode = s.mode ∧ t.devAddr = s.devAddr

theorem SameConfig.refl (s : State) : SameConfig s s := ⟨rfl, rfl, rfl, rfl⟩

theorem not_loadCal_of_calibrated {s : State} (h : Coherent s) (hcal : s.calValid = true) :
    ((remaining s).head?.map (·.op)) ≠ some (.exec .loadCal) := by
  rcases hseq : s.seq with _ | ⟨cmd, _ | ⟨slot, rest⟩⟩ <;> rw [remaining, hseq]
  · exact nofun
  · exact nofun
  · obtain ⟨-, hc⟩ := (coherent_run_iff hseq).1 h
    intro hop
    have hslot : slot.op = .exec .loadCal := Option.some.inj hop
    have hfits := hc.opFits
    rw [hslot] at hfits
    exact hc.calibrated.1 hcal ((opFits_exec.1 hfits).1 rfl)

theorem sameConfig_engineStep {s : State} (h : Coherent s) (hcal : s.calValid = true) :
    SameConfig s (engineStep s) := by
  obtain ⟨b, f, hw, -, hf⟩ := engineStep_writes s
  have hload : f ≠ some .loadCal := fun hp => not_loadCal_of_calibrated h hcal (hf _ hp)
  exact ⟨hw.cal hload, (hw.calValid.2 (.inl hcal)).trans hcal.symm, hw.mode, hw.devAddr⟩

theorem sameConfig_issueCommand (s : State) (i : Instr) :
    SameConfig s (issueCommand i (refusal i s) (startClears i) (programOf i s.params s.mode) s) := by
  obtain ⟨-, h⟩ | ⟨-, e, -, h⟩ | ⟨-, -, h⟩ :=
    issueCommand_cases i (refusal i s) (startClears i) (programOf i s.params s.mode) s <;> rw [h]
  · exact .refl s
  · exact .refl s
  · rw [acceptCommand, startClears_eq]
    exact .refl s

theorem sameConfig_stimulusStep {s t : State} {x : Stimulus} (h : Coherent s) (hcal : s.calValid = true)
    (hx : ∀ mode devAddr, x ≠ .reset mode devAddr) (hstep : stimulusStep x s = .next t) : SameConfig s t := by
  cases x with
  | hostRead idx => cases hstep; exact .refl s
  | hostWrite idx data =>
    obtain ⟨i, hw⟩ | ⟨-, hw⟩ := stimulusStep_hostWrite idx data s <;> cases hw.symm.trans hstep
    · exact sameConfig_issueCommand s i
    · obtain ⟨ovr, err, lastCmd, sealevelIn, altitudeIn, hframe⟩ := writeOther_frame idx data s
      rw [hostWriteOther, hframe]
      exact .refl s
  | poll =>
    cases hstep
    unfold pollTurn
    cases busy s <;> exact .refl s
  | engine => cases hstep; exact sameConfig_engineStep h hcal
  | elapse us => cases hstep; exact .refl s
  | reset mode devAddr => exact absurd rfl (hx mode devAddr)

/-- Settles O51: only the Exec of LOAD_CAL writes the calibration, and no such µop is left once it is valid. -/
theorem calibrationIsImmutableUntilReset : Obligations.CalibrationIsImmutableUntilReset := by
  intro s t h hcal hagenda hstep
  obtain ⟨x, later, hx, hhead⟩ := step_eq_stimulusStep s
  have hnoreset (mode : BitVec 2) (devAddr : Byte) : x ≠ .reset mode devAddr := by
    rintro rfl
    obtain ⟨-, hx⟩ | hcons := hhead
    · cases hx
    · exact hagenda mode devAddr later hcons
  obtain ⟨hc, hv, hm, hd⟩ :=
    sameConfig_stimulusStep (s := { s with agenda := later }) h hcal hnoreset (hx.symm.trans hstep)
  exact ⟨hc, hv.trans hcal, hm, hd⟩

end Sys2Proof.Proofs
end

section
/-! The memory chapter's statements: what each host access answers and changes (R71 to R75), and that host reads and
passing time leave the engine alone (R76, R77, R88). -/

namespace Sys2Proof.Proofs

open Sys2Proof Sys2Proof.Machine Sys2Proof.Safety Sys2Proof.Spec Sys2Proof.Laws

/-! ### The register map -/

theorem decodeIndex_of_mem_registerMap {idx : Byte} {r : HostReg} (h : (idx, r) ∈ registerMap) :
    decodeIndex idx = some r := by
  have hmap : ∀ e ∈ registerMap, decodeIndex e.1 = some e.2 := by decide
  exact hmap (idx, r) h

theorem indexOf_of_decodeIndex {idx : Byte} {r : HostReg} (h : decodeIndex idx = some r) : indexOf r = idx := by
  unfold decodeIndex at h
  split at h <;> cases h
  all_goals next hidx => exact BitVec.eq_of_toNat_eq hidx.symm

theorem decodeIndex_of_unmapped {idx : Byte} (h : unmapped idx) : decodeIndex idx = none := by
  unfold unmapped at h
  unfold decodeIndex
  split
  case h_25 => rfl
  all_goals omega

/-! ### Host reads -/

theorem step_hostRead {s : State} {idx : Byte} {later : List Stimulus} (ha : s.agenda = .hostRead idx :: later) :
    step s = .next (hostRead idx { s with agenda := later }) :=
  step_of_agenda_cons ha

theorem readAnswer_ok {s : State} {idx : Byte} {r : HostReg} {data : BitVec 64} (hidx : decodeIndex idx = some r)
    (hreg : readReg r s = some data) : readAnswer idx s = (.ok, data) := by
  simp [readAnswer, hidx, hreg]

/-- No register to read: CMD, or an index the map does not list (R75). -/
theorem readAnswer_decerr {idx : Byte} (h : idx = 0x00 ∨ unmapped idx) (s : State) :
    readAnswer idx s = (.decerr, 0) := by
  obtain rfl | h := h
  · rfl
  · simp [readAnswer, decodeIndex_of_unmapped h]

theorem step_hostRead_of_answer {s : State} {idx : Byte} {later : List Stimulus} {resp : Resp} {data : BitVec 64}
    (ha : s.agenda = .hostRead idx :: later) (hr : readAnswer idx { s with agenda := later } = (resp, data)) :
    step s = .next { s with agenda := later, trace := s.trace ++ [.hostRead idx resp data] } := by
  rw [step_hostRead ha, hostRead, hr]
  rfl

/-- Settles O11: the access answers the register's pattern, widened to 64 bits where it is narrower. -/
theorem hostReadReturnsTheWholePattern : Obligations.HostReadReturnsTheWholePattern := by
  intro s idx r later ha hmem hr
  have hstep {data : BitVec 64} (hreg : readReg r { s with agenda := later } = some data) :=
    step_hostRead_of_answer ha (readAnswer_ok (decodeIndex_of_mem_registerMap hmem) hreg)
  cases r with
  | cmd => exact absurd rfl hr
  | tempC | altOut | slpOut | sealevelIn | altitudeIn => exact ⟨_, hstep rfl, rfl⟩
  | status | cfg | cal | ut | up | b5 | t10 | pres =>
    exact ⟨_, hstep rfl, BitVec.toNat_setWidth_of_le (by decide)⟩

/-! ### Host writes -/

theorem writeOther_decerr {idx : Byte} (h : idx ≠ 0x00 ∧ idx ≠ 0x40 ∧ idx ≠ 0x41) (data : BitVec 64) (s : State) :
    writeOther idx data s = (.decerr, s) := by
  obtain ⟨hcmd, hsealevel, haltitude⟩ := h
  unfold writeOther
  split
  · next hidx => exact absurd (indexOf_of_decodeIndex hidx).symm hcmd
  · next hidx => exact absurd (indexOf_of_decodeIndex hidx).symm hsealevel
  · next hidx => exact absurd (indexOf_of_decodeIndex hidx).symm haltitude
  all_goals rfl

/-- Settles O10: a read finds no register to read, and a write none to write. -/
theorem decodeErrorsChangeNothing : Obligations.DecodeErrorsChangeNothing := by
  intro s idx data later
  refine ⟨fun ha hidx => step_hostRead_of_answer ha (readAnswer_decerr hidx _), fun ha hidx => ?_⟩
  rw [step_hostWrite_other ha (commandOf_other hidx.1 data), hostWriteOther, writeOther_decerr hidx]
  rfl

theorem writeOther_busy {s : State} {idx : Byte} (hbusy : s.seq ≠ .idle) (h : idx = 0x00 ∨ idx = 0x40 ∨ idx = 0x41)
    (data : BitVec 64) : writeOther idx data s = (.ok, dropWrite s) := by
  obtain rfl | rfl | rfl := h <;> simp [writeOther, decodeIndex, issueIllegal, busy_eq_true hbusy]

/-- A busy block drops a write, whether or not it carries a command (R74). -/
theorem stimulusStep_write_busy {s : State} {idx : Byte} (hbusy : s.seq ≠ .idle)
    (h : idx = 0x00 ∨ idx = 0x40 ∨ idx = 0x41) (data : BitVec 64) :
    stimulusStep (.hostWrite idx data) s = .next (record (.hostWrite idx data .ok) (dropWrite s)) := by
  obtain ⟨i, hissue⟩ | ⟨-, hother⟩ := stimulusStep_hostWrite idx data s
  · rw [hissue, issueCommand_busy hbusy]
  · rw [hother, hostWriteOther, writeOther_busy hbusy h]

/-- Settles O8: all that a dropped write leaves is OVR and its event. -/
theorem writeWhileBusyOnlySetsOvr : Obligations.WriteWhileBusyOnlySetsOvr := by
  intro s idx data later hbusy ha hidx
  rw [step_of_agenda_cons ha, stimulusStep_write_busy (s := { s with agenda := later }) hbusy hidx]
  rfl

theorem commandOf_of_decode {data : BitVec 64} {i : Instr} {rest : List Byte}
    (h : decode [data.extractLsb' 0 8] = .ok (i, rest)) : commandOf 0x00 data = some i := by
  have hcmd : (0x00 : Byte) = indexOf .cmd := rfl
  simp only [commandOf, codeField_eq, h, if_pos hcmd]

/-- Settles O5: the step is `exec` of the decoded command, its outcome recorded. -/
theorem stepRunsTheDecodedCommand : Obligations.StepRunsTheDecodedCommand := by
  intro s data later i ha hdecode _
  have hstep : step s = recordIssue 0x00 data (exec i { s with agenda := later }) := by
    rw [step_of_agenda_cons ha]
    simp only [stimulusStep, commandOf_of_decode hdecode]
  rw [hstep]
  refine ⟨fun t ht => ?_, fun r hr => ?_, fun r hr => ?_⟩
  · rw [ht]; rfl
  · rw [hr]; rfl
  · rw [hr]; rfl

/-! ### What the engine does not see

The engine acts on what `engineView` keeps: states with one view step to states with one view. -/

/-- The same registers, sequencer, answers and record without reads. -/
def SameEngine (s t : State) : Prop := engineView s = engineView t

theorem withoutReads_append (l m : List Event) : withoutReads (l ++ m) = withoutReads l ++ withoutReads m :=
  List.filter_append l m

section

variable {s t : State}

/-- What is read off the view is read alike. -/
theorem SameEngine.read {α : Type} (h : SameEngine s t) (f : State → α) (hf : ∀ u, f (engineView u) = f u) :
    f s = f t := by
  rw [← hf s, h, hf t]

/-- An update that is an update of the view keeps the views the same. -/
theorem SameEngine.update (h : SameEngine s t) (f : State → State)
    (hf : ∀ u, engineView (f u) = f (engineView u)) : SameEngine (f s) (f t) := by
  rw [SameEngine, hf, hf, h]

theorem SameEngine.seq (h : SameEngine s t) : s.seq = t.seq := h.read State.seq fun _ => rfl

theorem SameEngine.answers (h : SameEngine s t) : s.answers = t.answers := h.read State.answers fun _ => rfl

theorem SameEngine.devAddr (h : SameEngine s t) : s.devAddr = t.devAddr := h.read State.devAddr fun _ => rfl

theorem SameEngine.checkPrim (h : SameEngine s t) (p : Prim) : checkPrim p s = checkPrim p t := by
  cases p <;> exact h.read _ fun _ => rfl

theorem engineView_record (e : Event) (u : State) : engineView (record e u)
    = { engineView u with trace := (engineView u).trace ++ withoutReads [e] } := by
  rw [engineView, record_trace, withoutReads_append]
  rfl

theorem engineView_hostRead (idx : Byte) (u : State) : engineView (hostRead idx u) = engineView u := by
  rw [hostRead, engineView_record]
  simp [withoutReads]

theorem SameEngine.record (h : SameEngine s t) (e : Event) : SameEngine (record e s) (record e t) := by
  rw [SameEngine, engineView_record, engineView_record, h]

/-- Both transactions take their answer and record the same event, which carries the bus address. -/
theorem SameEngine.transaction (h : SameEngine s t) (later : List Answer) (e : Byte → Event) :
    SameEngine (Machine.record (e s.devAddr) { s with answers := later, inFlight := false })
      (Machine.record (e t.devAddr) { t with answers := later, inFlight := false }) := by
  have htaken := h.update (fun u => { u with answers := later, inFlight := false }) fun _ => rfl
  rw [congrArg e h.devAddr]
  exact htaken.record (e t.devAddr)

theorem SameEngine.raiseError (h : SameEngine s t) (e : ErrCode) : SameEngine (raiseError e s) (raiseError e t) :=
  h.update (Machine.raiseError e) fun _ => rfl

theorem SameEngine.finish (h : SameEngine s t) : SameEngine (finish s) (finish t) :=
  h.update Machine.finish fun _ => rfl

theorem SameEngine.advance (h : SameEngine s t) (cmd : Instr) (rest : List Slot) :
    SameEngine (advance cmd rest s) (advance cmd rest t) := by
  cases rest with
  | nil => exact h.finish
  | cons x xs => exact h.update (Machine.advance cmd (x :: xs)) fun _ => rfl

theorem SameEngine.holdTransaction (h : SameEngine s t) (cmd : Instr) (op : UOp) (rest : List Slot) :
    SameEngine (holdTransaction cmd op rest s) (holdTransaction cmd op rest t) :=
  h.update (Machine.holdTransaction cmd op rest) fun _ => rfl

theorem SameEngine.storeBytes (h : SameEngine s t) (dst : Dst) (bs : List Byte) :
    SameEngine (storeBytes dst bs s) (storeBytes dst bs t) :=
  h.update (Machine.storeBytes dst bs) fun _ => by cases dst <;> rfl

theorem SameEngine.startPrim (h : SameEngine s t) (p : Prim) : SameEngine (startPrim p s) (startPrim p t) :=
  h.update (Machine.startPrim p) fun _ => by cases p <;> rfl

/-- A commit reads registers and writes registers. -/
theorem commitPrim_engineView (f : Prim) (s : State) :
    commitPrim f (engineView s) = (commitPrim f s).map engineView := by
  cases f with
  | loadCal | sampleT | sampleP | alt | slp => rfl
  | compT =>
    have hpipe : compTOf (engineView s) = compTOf s := rfl
    simp only [commitPrim, commitCompT, hpipe]
    cases compTOf s <;> rfl
  | compP =>
    have hpipe : compPOf (engineView s) = compPOf s := rfl
    simp only [commitPrim, commitCompP, hpipe]
    cases compPOf s <;> rfl

theorem SameEngine.commitPrim (h : SameEngine s t) (f : Prim) :
    (commitPrim f s).map engineView = (commitPrim f t).map engineView := by
  rw [← commitPrim_engineView, ← commitPrim_engineView, h]

/-! One µop, one slot, one engine step: each is made of the updates above, on the same case for both states. -/

theorem SameEngine.runTxWrite (h : SameEngine s t) (cmd : Instr) (reg val : Byte) (rest : List Slot) :
    SameEngine (runTxWrite cmd reg val rest s) (runTxWrite cmd reg val rest t) := by
  unfold Machine.runTxWrite
  rw [h.answers]
  rcases t.answers with _ | ⟨bs | _ | _, later⟩
  · exact h.holdTransaction ..
  · exact (h.transaction later fun dev => .txWrite dev reg val true).advance cmd rest
  · exact (h.transaction later fun dev => .txWrite dev reg val false).raiseError .transport
  · exact h.holdTransaction ..

theorem SameEngine.runTxRead (h : SameEngine s t) (cmd : Instr) (reg : Byte) (n : Nat) (dst : Dst)
    (rest : List Slot) : SameEngine (runTxRead cmd reg n dst rest s) (runTxRead cmd reg n dst rest t) := by
  unfold Machine.runTxRead
  rw [h.answers]
  rcases t.answers with _ | ⟨bs | _ | _, later⟩
  · exact h.holdTransaction ..
  · by_cases hlen : bs.length = n
    · simp only [if_pos hlen]
      exact ((h.transaction later fun dev => .txRead dev reg n (some bs)).storeBytes dst bs).advance cmd rest
    · simp only [if_neg hlen]
      exact (h.transaction later fun dev => .txRead dev reg n (some bs)).raiseError .transport
  · exact (h.transaction later fun dev => .txRead dev reg n none).raiseError .transport
  · exact h.holdTransaction ..

theorem SameEngine.runExec (h : SameEngine s t) (cmd : Instr) (f : Prim) (rest : List Slot) :
    SameEngine (runExec cmd f rest s) (runExec cmd f rest t) := by
  have hcommit := h.commitPrim f
  unfold Machine.runExec
  cases hs : Machine.commitPrim f s <;> cases ht : Machine.commitPrim f t <;> rw [hs, ht] at hcommit
  case ok.ok u v => exact (SameEngine.record (Except.ok.inj hcommit) _).advance cmd rest
  case error.error e e' =>
    obtain rfl := Except.error.inj hcommit
    exact (h.record _).raiseError e
  all_goals cases hcommit

theorem SameEngine.runOp (h : SameEngine s t) (cmd : Instr) (op : UOp) (rest : List Slot) :
    SameEngine (runOp cmd op rest s) (runOp cmd op rest t) := by
  cases op with
  | txWrite reg val => exact h.runTxWrite cmd reg val rest
  | txRead reg n dst => exact h.runTxRead cmd reg n dst rest
  | wait us =>
    have htimer : SameEngine { s with timer := us } { t with timer := us } := h
    exact (htimer.record (.wait us)).advance cmd rest
  | exec f => exact h.runExec cmd f rest

theorem SameEngine.runSlot (h : SameEngine s t) (cmd : Instr) (slot : Slot) (rest : List Slot) :
    SameEngine (runSlot cmd slot rest s) (runSlot cmd slot rest t) := by
  obtain ⟨_ | p, op⟩ := slot
  · exact h.runOp cmd op rest
  · simp only [Machine.runSlot, beginPhase, h.checkPrim p]
    cases Machine.checkPrim p t with
    | some e => exact h.raiseError e
    | none => exact (h.startPrim p).runOp cmd op rest

theorem SameEngine.engineStep (h : SameEngine s t) : SameEngine (engineStep s) (engineStep t) := by
  have htimer : SameEngine { s with timer := 0 } { t with timer := 0 } := h
  rcases ht : t.seq with _ | ⟨cmd, _ | ⟨slot, rest⟩⟩ <;> have hs := h.seq.trans ht
  · rwa [engineStep_idle hs, engineStep_idle ht]
  · simp only [Machine.engineStep, hs, ht]
    exact htimer.finish
  · rw [engineStep_run hs, engineStep_run ht]
    exact htimer.runSlot cmd slot rest

end

/-! ### Interleaving -/

theorem engineStep_agenda (s : State) : (engineStep s).agenda = s.agenda := by
  obtain ⟨b, f, hw, -⟩ := engineStep_writes s
  exact hw.agenda

/-- A schedule without writes, polls and resets, run beside its engine steps from states with one view. -/
theorem passive_run_sameEngine {l : List Stimulus} (hl : ∀ x ∈ l, isPassive x = true) :
    ∀ {s t : State}, s.agenda = l → t.agenda = [] → SameEngine s t →
      ∃ u v, Runs l.length s u ∧ Runs (engineSteps l) t v ∧ SameEngine u v := by
  induction l with
  | nil => exact fun _ _ h => ⟨_, _, rfl, rfl, h⟩
  | cons x l ih =>
    intro s t hs ht h
    obtain ⟨hx, hrest⟩ := List.forall_mem_cons.1 hl
    have hstep := step_of_agenda_cons hs
    replace h : SameEngine { s with agenda := l } t := h
    rw [List.length_cons]
    cases x with
    | engine =>
      obtain ⟨u, v, hu, hv, huv⟩ :=
        ih hrest (engineStep_agenda { s with agenda := l }) ((engineStep_agenda t).trans ht) h.engineStep
      have hcount : engineSteps (.engine :: l) = engineSteps l + 1 := List.countP_cons_of_pos rfl
      rw [hcount]
      exact ⟨u, v, (runs_succ_of_step _ hstep).2 hu, (runs_engine_succ _ ht).2 hv, huv⟩
    | elapse us =>
      obtain ⟨u, v, hu, hv, huv⟩ := ih hrest (s := elapseTime us { s with agenda := l }) rfl ht h
      exact ⟨u, v, (runs_succ_of_step _ hstep).2 hu, hv, huv⟩
    | hostRead idx =>
      have hread : SameEngine (hostRead idx { s with agenda := l }) t := (engineView_hostRead idx _).trans h
      obtain ⟨u, v, hu, hv, huv⟩ := ih hrest rfl ht hread
      exact ⟨u, v, (runs_succ_of_step _ hstep).2 hu, hv, huv⟩
    | hostWrite idx data => cases hx
    | poll => cases hx
    | reset mode devAddr => cases hx

/-- Settles O54: only the engine's own steps change what the engine sees. -/
theorem interleavedReadsDoNotDisturbTheEngine : Obligations.InterleavedReadsDoNotDisturbTheEngine :=
  fun _ _ hl => passive_run_sameEngine hl rfl rfl rfl

end Sys2Proof.Proofs
end

section
/-! The encoding chapter's statements: the codes of the commands and the indices of the registers (R100 to R103,
R112), what an illegal code leaves (R102), the poll loop (R106), and the fields of STATUS and CFG (R113). -/

namespace Sys2Proof.Proofs

open Sys2Proof Sys2Proof.Machine Sys2Proof.Spec Sys2Proof.Laws

/-! ### Command codes -/

theorem codeOf_of_decodeCode {c : Byte} {i : Instr} (h : decodeCode c = .ok i) : codeOf i = c := by
  unfold decodeCode at h
  split at h <;> cases h
  all_goals next hc => exact BitVec.eq_of_toNat_eq hc.symm

theorem decodeCode_eq_ok_iff {c : Byte} {i : Instr} : decodeCode c = .ok i ↔ codeOf i = c :=
  ⟨codeOf_of_decodeCode, fun h => h ▸ decodeCode_codeOf i⟩

/-- The codes outside the table are those below its first and above its last (R102). -/
theorem decodeCode_eq_illegal_iff {c : Byte} :
    decodeCode c = .error (.illegal c) ↔ c.toNat = 0 ∨ 12 ≤ c.toNat := by
  constructor
  · intro h
    unfold decodeCode at h
    split at h <;> cases h
    grind
  · intro h
    unfold decodeCode
    split
    case h_12 => rfl
    all_goals omega

/-- Settles O1: codes and commands determine each other, and what is no command's code lies outside the table. -/
theorem decodingIsTotalAndExact : Obligations.DecodingIsTotalAndExact :=
  fun _ => ⟨fun _ => decodeCode_eq_ok_iff, decodeCode_eq_illegal_iff.symm⟩

theorem decode_codeOf (i : Instr) (rest : List Byte) : decode (codeOf i :: rest) = .ok (i, rest) := by
  simp only [decode, decodeCode_codeOf]

theorem decode_of_illegal {c : Byte} (h : c.toNat = 0 ∨ 12 ≤ c.toNat) (rest : List Byte) :
    decode (c :: rest) = .error (.illegal c) := by
  simp only [decode, decodeCode_eq_illegal_iff.2 h]

/-- Settles O2: each written code is its command's (`decode_codeOf`), and the two beside the table are illegal. -/
theorem writtenCodesDecode : Obligations.WrittenCodesDecode :=
  ⟨decode_codeOf .loadCal [], decode_codeOf .sampleT [], decode_codeOf .sampleP [], decode_codeOf .compT [],
    decode_codeOf .compP [], decode_codeOf .alt [], decode_codeOf .slp [], decode_codeOf .readTemperature [],
    decode_codeOf .readPressure [], decode_codeOf .readAltitude [], decode_codeOf .readSealevel [],
    decode_of_illegal (.inl rfl) [], decode_of_illegal (.inr le_rfl) []⟩

/-- Settles O3: an encoding is the one byte of the command's code. -/
theorem decodeAfterEncodeIsIdentity : Obligations.DecodeAfterEncodeIsIdentity :=
  fun i rest _ => decode_codeOf i rest

/-! ### Register indices -/

theorem unmapped_of_decodeIndex {idx : Byte} (h : decodeIndex idx = none) : unmapped idx := by
  unfold decodeIndex at h
  split at h <;> cases h
  grind [unmapped]

/-- Settles O4: index and register determine each other, so the map written out says both of each of its entries. -/
theorem registerIndicesAgree : Obligations.RegisterIndicesAgree := by
  refine ⟨fun e he => ?_, fun idx => ⟨decodeIndex_of_unmapped, unmapped_of_decodeIndex⟩, fun idx r => ?_⟩
  · have hidx := decodeIndex_of_mem_registerMap he
    exact ⟨hidx, indexOf_of_decodeIndex hidx⟩
  · exact ⟨indexOf_of_decodeIndex, fun h => h ▸ decodeIndex_indexOf r⟩

/-! ### Illegal codes -/

theorem issueIllegal_idle {s : State} (h : s.seq = .idle) (code : Byte) :
    issueIllegal code s = refuseCommand code .illegal s := by
  simp [issueIllegal, busy_eq_false h]

/-- Settles O7: such a write issues no command, and the idle block refuses it as illegal. -/
theorem illegalCodeChangesOnlyStatus : Obligations.IllegalCodeChangesOnlyStatus := by
  intro s data later hidle ha hcode
  have hnone : commandOf 0x00 data = none :=
    commandOf_illegal (decodeCode_eq_illegal_iff.2 (codeField_eq data ▸ hcode))
  have hrefuse : writeOther 0x00 data { s with agenda := later } =
      (.ok, refuseCommand (data.extractLsb' 0 8) .illegal { s with agenda := later }) := by
    rw [← codeField_eq, ← issueIllegal_idle (s := { s with agenda := later }) hidle]
    rfl
  rw [step_hostWrite_other ha hnone, hostWriteOther, hrefuse]
  rfl

/-! ### Polling -/

theorem pollTurn_idle {s : State} (h : s.seq = .idle) : pollTurn s = hostRead (indexOf .status) s := by
  simp [pollTurn, busy_eq_false h]

theorem pollTurn_busy {s : State} (h : s.seq ≠ .idle) :
    pollTurn s = { hostRead (indexOf .status) s with agenda := .engine :: .poll :: s.agenda } := by
  simp [pollTurn, busy_eq_true h, hostRead]

/-- Settles O57: a turn is one read of STATUS, followed by another turn only while the engine is busy. -/
theorem pollRepeatsWhileBusy : Obligations.PollRepeatsWhileBusy := by
  intro s later ha
  rw [step_of_agenda_cons ha, stimulusStep]
  by_cases hidle : s.seq = .idle
  · rw [pollTurn_idle (s := { s with agenda := later }) hidle, if_pos hidle]
    rfl
  · rw [pollTurn_busy (s := { s with agenda := later }) hidle, if_neg hidle]
    rfl

/-! ### STATUS and CFG

Each field is read by descending the concatenation from its outermost part (the `↓` of the rewrites: `simp` would
otherwise evaluate the widths first, and the rules ask for them as sums). -/

/-- The one-bit fields of STATUS. -/
theorem statusWord_flags (s : State) :
    (statusWord s).getLsbD 0 = busy s ∧ (statusWord s).getLsbD 1 = s.ovr
      ∧ (statusWord s).getLsbD 8 = s.calValid ∧ (statusWord s).getLsbD 9 = s.utValid
      ∧ (statusWord s).getLsbD 10 = s.upValid ∧ (statusWord s).getLsbD 11 = s.b5Valid
      ∧ (statusWord s).getLsbD 12 = s.tValid ∧ (statusWord s).getLsbD 13 = s.pValid
      ∧ (statusWord s).getLsbD 14 = s.altValid ∧ (statusWord s).getLsbD 15 = s.slpValid := by
  unfold statusWord
  simp [↓BitVec.getLsbD_append]

/-- The wider fields of STATUS, the reserved ones included. -/
theorem statusWord_fields (s : State) :
    (statusWord s).extractLsb' 2 2 = 0 ∧ (statusWord s).extractLsb' 4 4 = errBits s.err
      ∧ (statusWord s).extractLsb' 16 8 = s.lastCmd ∧ (statusWord s).extractLsb' 24 8 = 0 := by
  unfold statusWord
  simp [↓BitVec.extractLsb'_append_eq_of_le, ↓BitVec.extractLsb'_append_eq_of_add_le]

theorem cfgWord_fields (s : State) :
    (cfgWord s).extractLsb' 0 2 = s.mode ∧ (cfgWord s).extractLsb' 2 6 = 0
      ∧ (cfgWord s).extractLsb' 8 8 = s.devAddr := by
  unfold cfgWord
  simp [↓BitVec.extractLsb'_append_eq_of_le, ↓BitVec.extractLsb'_append_eq_of_add_le]

/-- Settles O12: the words are the concatenations of these fields, and `errBits` is the table of R240. -/
theorem statusAndCfgFields : Obligations.StatusAndCfgFields := by
  intro s
  obtain ⟨hbusy, hovr, hflags⟩ := statusWord_flags s
  obtain ⟨hlow, herr, hlast, hhigh⟩ := statusWord_fields s
  have hcodes := herr.trans (errBits.eq_def s.err)
  obtain ⟨hcal, hut, hup, hb5, ht, hp, halt, hslp⟩ := hflags
  exact ⟨hbusy, hovr, hlow, hcodes, hcal, hut, hup, hb5, ht, hp, halt, hslp, hlast, hhigh, cfgWord_fields s⟩

end Sys2Proof.Proofs
end

section
/-! The calibration and sampling statements: LOAD_CAL (R142, R144) and the samples SAMPLE_T and SAMPLE_P (R150 to
R158). Each outcome of a µop is one rule about `Runs`; a list of calibration reads and a sample are runs of these
rules, said for any command and any list that goes on after them. -/

namespace Sys2Proof.Proofs

open Sys2Proof Sys2Proof.Machine Sys2Proof.Safety Sys2Proof.Spec Sys2Proof.Laws

/-! ### Acceptance -/

theorem exec_accepted {i : Instr} {s : State} (hidle : s.seq = .idle) (hok : refusal i s = none) :
    exec i s = .next (acceptCommand i (startClears i) (programOf i s.params s.mode) s) := by
  rw [exec_eq_issueCommand, hok, issueCommand_accepted hidle]

theorem busy_acceptCommand (i : Instr) (start : State → State) (prog : List Slot) (s : State) :
    busy (acceptCommand i start prog s) = true :=
  busy_eq_true nofun

theorem advance_of_ne_nil (cmd : Instr) {rest : List Slot} (h : rest ≠ []) (s : State) :
    advance cmd rest s = { s with seq := .run cmd rest } :=
  (advance_cases cmd rest s).elim (fun ⟨hnil, _⟩ => absurd hnil h) And.right

/-! ### The outcomes of a µop, as rules about runs -/

/-- The state in which the transaction at the head has its answer: the answer is used up, the event recorded. -/
def answered (later : List Answer) (e : Event) (s : State) : State :=
  record e { s with timer := 0, answers := later, inFlight := false }

section

variable {s u : State} {cmd : Instr} {rest : List Slot} {later : List Answer} {k : Nat}

theorem runs_runOp {op : UOp} (hagenda : s.agenda = []) (hseq : s.seq = .run cmd (⟨none, op⟩ :: rest))
    (h : Runs k (runOp cmd op rest { s with timer := 0 }) u) : Runs (k + 1) s u := by
  rwa [runs_engine_succ k hagenda, engineStep_run hseq, runSlot_none]

theorem runs_txWrite_ok {reg val : Byte} {w : List Byte} (hagenda : s.agenda = [])
    (hseq : s.seq = .run cmd (⟨none, .txWrite reg val⟩ :: rest)) (ha : s.answers = .ok w :: later)
    (h : Runs k (advance cmd rest (answered later (.txWrite s.devAddr reg val true) s)) u) : Runs (k + 1) s u :=
  runs_runOp hagenda hseq (by simp only [runOp, runTxWrite, ha]; exact h)

theorem runs_txWrite_fail {reg val : Byte} (hagenda : s.agenda = [])
    (hseq : s.seq = .run cmd (⟨none, .txWrite reg val⟩ :: rest)) (ha : s.answers = .fail :: later)
    (h : Runs k (raiseError .transport (answered later (.txWrite s.devAddr reg val false) s)) u) :
    Runs (k + 1) s u :=
  runs_runOp hagenda hseq (by simp only [runOp, runTxWrite, ha]; exact h)

theorem runs_wait {t : Nat} (hagenda : s.agenda = []) (hseq : s.seq = .run cmd (⟨none, .wait t⟩ :: rest))
    (h : Runs k (advance cmd rest (record (.wait t) { s with timer := t })) u) : Runs (k + 1) s u :=
  runs_runOp hagenda hseq h

theorem runs_txRead_ok {reg : Byte} {n : Nat} {dst : Dst} {bs : List Byte} (hagenda : s.agenda = [])
    (hseq : s.seq = .run cmd (⟨none, .txRead reg n dst⟩ :: rest)) (ha : s.answers = .ok bs :: later)
    (hlen : bs.length = n)
    (h : Runs k (advance cmd rest (storeBytes dst bs (answered later (.txRead s.devAddr reg n (some bs)) s))) u) :
    Runs (k + 1) s u :=
  runs_runOp hagenda hseq (by simp only [runOp, runTxRead, ha, if_pos hlen]; exact h)

theorem runs_txRead_bad {reg : Byte} {n : Nat} {dst : Dst} {bad : Answer} (hagenda : s.agenda = [])
    (hseq : s.seq = .run cmd (⟨none, .txRead reg n dst⟩ :: rest)) (ha : s.answers = bad :: later)
    (hbad : badAnswer n bad)
    (h : Runs k (raiseError .transport (answered later (.txRead s.devAddr reg n (readOutcome bad)) s)) u) :
    Runs (k + 1) s u := by
  apply runs_runOp hagenda hseq
  obtain rfl | ⟨bs, rfl, hlen⟩ := hbad
  · simp only [runOp, runTxRead, ha]
    exact h
  · simp only [runOp, runTxRead, ha, if_neg hlen]
    exact h

theorem runs_exec_ok {f : Prim} {t : State} (hagenda : s.agenda = [])
    (hseq : s.seq = .run cmd (⟨none, .exec f⟩ :: rest)) (hcommit : commitPrim f { s with timer := 0 } = .ok t)
    (h : Runs k (advance cmd rest (record (.exec cmd f) t)) u) : Runs (k + 1) s u :=
  runs_runOp hagenda hseq (by simp only [runOp, runExec, hcommit]; exact h)

end

/-! ### Calibration reads -/

/-- The reads of the constants `ks` into their staging registers. -/
def calReads (a : CalTable Byte) (ks : List CalName) : List Slot :=
  primList (ks.map fun k => .txRead (calGet a k) 2 (.stg k))

/-- The staging registers after the pairs `good` were read for the constants `ks`. -/
def staged (stg : CalTable Half) (ks : List CalName) (good : List (Byte × Byte)) : CalTable Half :=
  (ks.zip good).foldl (fun t kb => calSet t kb.1 (kb.2.1 ++ kb.2.2)) stg

/-- The events of reads from these addresses that gave these pairs, as far as both lists go. -/
def readEvents (dev : Byte) (regs : List Byte) (good : List (Byte × Byte)) : List Event :=
  List.zipWith (fun reg b => .txRead dev reg 2 (some [b.1, b.2])) regs good

theorem programOf_loadCal (p : Params) (mode : BitVec 2) :
    programOf .loadCal p mode = calReads p.calAddr calOrder ++ [⟨none, .exec .loadCal⟩] := rfl

theorem addresses_eq (a : CalTable Byte) : addresses a = calOrder.map (calGet a) := rfl

theorem calEvents_eq_readEvents (dev : Byte) (a : CalTable Byte) (good : List (Byte × Byte)) :
    calEvents dev a good = readEvents dev (calOrder.map (calGet a)) good := rfl

theorem pairs_ne_nil (b : CalBytes) : pairs b ≠ [] := List.cons_ne_nil _ _

/-- Eleven pairs leave nothing of what was staged before. -/
theorem staged_pairs (stg : CalTable Half) (b : CalBytes) : staged stg calOrder (pairs b) = patterns b := rfl

/-- Good answers to the first calibration reads of a list stage their patterns, one step each (R142). The timer and
the transaction of the state before stay only where no read happened. -/
theorem runs_calReads {cmd : Instr} {a : CalTable Byte} {rest : List Slot} {later : List Answer} {u : State} {n : Nat}
    (hrest : rest ≠ []) (good : List (Byte × Byte)) : ∀ {ks : List CalName} {s : State},
    s.agenda = [] → s.seq = .run cmd (calReads a ks ++ rest) → good.length ≤ ks.length →
    s.answers = pairAnswers good ++ later →
    Runs n
      { s with
        stg := staged s.stg ks good, answers := later, timer := if good.isEmpty then s.timer else 0,
        inFlight := good.isEmpty && s.inFlight, seq := .run cmd (calReads a (ks.drop good.length) ++ rest),
        trace := s.trace ++ readEvents s.devAddr (ks.map (calGet a)) good } u →
    Runs (n + good.length) s u := by
  induction good with
  | nil =>
    intro ks s _ hseq _ ha h
    have ha : s.answers = later := ha
    simpa [staged, readEvents, ← hseq, ← ha] using h
  | cons b good ih =>
    intro ks s hagenda hseq hlen ha h
    cases ks with
    | nil => cases hlen
    | cons k ks =>
      refine runs_txRead_ok (rest := calReads a ks ++ rest) hagenda hseq ha rfl ?_
      rw [advance_of_ne_nil cmd (List.append_ne_nil_of_right_ne_nil _ hrest)]
      refine ih hagenda rfl (Nat.le_of_succ_le_succ hlen) rfl ?_
      simpa [staged, readEvents, storeBytes, answered, record, be16_pair] using h

/-- Settles O13: eleven good reads stage every constant, and the Exec commits them. -/
theorem loadCalLoadsAllEleven : Obligations.LoadCalLoadsAllEleven := by
  intro s b later ⟨hidle, hagenda⟩ hcal ha
  have hok : refusal .loadCal s = none := by simp [refusal, hcal]
  refine ⟨_, exec_accepted hidle hok, busy_acceptCommand _ _ _ _, ?_⟩
  refine runs_calReads (n := 1) (ks := calOrder) (List.cons_ne_nil _ []) (pairs b) hagenda rfl (Nat.le_refl _) ha ?_
  refine runs_exec_ok hagenda rfl rfl ?_
  simp [acceptCommand, record, finish, startClears, staged_pairs, pairs_ne_nil, calEvents_eq_readEvents, hidle, codeOf]

/-- Settles O14: the good reads only stage their patterns, and the bad one ends the command. -/
theorem loadCalIsAllOrNothing : Obligations.LoadCalIsAllOrNothing := by
  intro s good bad later ⟨hidle, hagenda⟩ hcal hlen hbad ha
  have hok : refusal .loadCal s = none := by simp [refusal, hcal]
  refine ⟨_, staged s.stg calOrder good, exec_accepted hidle hok, ?_⟩
  rw [Nat.add_comm good.length]
  refine runs_calReads (ks := calOrder) (List.cons_ne_nil _ []) good hagenda rfl (Nat.le_of_lt hlen) ha ?_
  have hlen : good.length < calOrder.length := hlen
  rw [List.drop_eq_getElem_cons hlen]
  refine runs_txRead_bad hagenda rfl rfl hbad ?_
  simp [acceptCommand, record, answered, raiseError, startClears, calEvents_eq_readEvents, addresses_eq, hlen, hidle,
    codeOf]

/-! ### Samples -/

/-- The µops of a sample up to its Exec: the conversion command, the settle wait and the read (R150, R155). -/
def sampleSlots (p : Params) (command : Byte) (settle n : Nat) : List Slot :=
  [⟨none, .txWrite p.ctrlReg command⟩, ⟨none, .wait settle⟩, ⟨none, .txRead p.dataReg n .rxbuf⟩]

/-- The events of these µops where the write succeeds. -/
def sampleEvents (p : Params) (dev command : Byte) (settle n : Nat) (a : Answer) : List Event :=
  [.txWrite dev p.ctrlReg command true, .wait settle, .txRead dev p.dataReg n (readOutcome a)]

theorem sampleTEvents_eq (s : State) (cmd : Instr) (b0 b1 : Byte) : sampleTEvents s cmd b0 b1 =
    sampleEvents s.params s.devAddr s.params.cmdTemp s.params.tSettleT 2 (.ok [b0, b1]) ++ [.exec cmd .sampleT] := rfl

theorem samplePEvents_eq (s : State) (cmd : Instr) (p0 p1 p2 : Byte) : samplePEvents s cmd p0 p1 p2 =
    sampleEvents s.params s.devAddr (presCommand s.params s.mode) (settleP s.params s.mode) 3 (.ok [p0, p1, p2])
      ++ [.exec cmd .sampleP] := rfl

theorem programOf_sampleT (p : Params) (mode : BitVec 2) :
    programOf .sampleT p mode = sampleSlots p p.cmdTemp p.tSettleT 2 ++ [⟨none, .exec .sampleT⟩] := rfl

theorem programOf_sampleP (p : Params) (mode : BitVec 2) : programOf .sampleP p mode =
    sampleSlots p (presCommand p mode) (settleP p mode) 3 ++ [⟨none, .exec .sampleP⟩] := by
  rw [presCommand, ← presByte_eq, settleP, ← modeGet_eq]
  rfl

section

variable {s u : State} {cmd : Instr} {p : Params} {command : Byte} {settle n k : Nat} {rest : List Slot}
  {later : List Answer}

/-- A conversion command that is answered, and its settle wait. -/
theorem runs_conversion {w : List Byte} (hagenda : s.agenda = [])
    (hseq : s.seq = .run cmd (sampleSlots p command settle n ++ rest)) (ha : s.answers = .ok w :: later)
    (h : Runs k
      { s with
        timer := settle, inFlight := false, answers := later,
        trace := s.trace ++ [.txWrite s.devAddr p.ctrlReg command true, .wait settle],
        seq := .run cmd (⟨none, .txRead p.dataReg n .rxbuf⟩ :: rest) } u) : Runs (k + 2) s u := by
  refine runs_txWrite_ok hagenda hseq ha (runs_wait hagenda rfl ?_)
  simpa [answered, record] using h

theorem runs_sample {w bs : List Byte} (hagenda : s.agenda = [])
    (hseq : s.seq = .run cmd (sampleSlots p command settle n ++ rest)) (hrest : rest ≠ [])
    (ha : s.answers = .ok w :: .ok bs :: later) (hlen : bs.length = n)
    (h : Runs k
      { s with
        rxbuf := bs, timer := 0, inFlight := false, answers := later,
        trace := s.trace ++ sampleEvents p s.devAddr command settle n (.ok bs), seq := .run cmd rest } u) :
    Runs (k + 3) s u := by
  refine runs_conversion hagenda hseq ha (runs_txRead_ok hagenda rfl rfl hlen ?_)
  rw [advance_of_ne_nil cmd hrest]
  simpa [answered, record, storeBytes, sampleEvents, readOutcome] using h

theorem runs_sample_bad_read {w : List Byte} {bad : Answer} (hagenda : s.agenda = [])
    (hseq : s.seq = .run cmd (sampleSlots p command settle n ++ rest))
    (ha : s.answers = .ok w :: bad :: later) (hbad : badAnswer n bad)
    (h : Runs k
      { s with
        err := .transport, timer := 0, inFlight := false, answers := later,
        trace := s.trace ++ sampleEvents p s.devAddr command settle n bad, seq := .idle } u) :
    Runs (k + 3) s u := by
  refine runs_conversion hagenda hseq ha (runs_txRead_bad hagenda rfl rfl hbad ?_)
  simpa [answered, record, raiseError, sampleEvents] using h

theorem runs_sample_failed_write (hagenda : s.agenda = [])
    (hseq : s.seq = .run cmd (sampleSlots p command settle n ++ rest)) (ha : s.answers = .fail :: later)
    (h : Runs k
      { s with
        err := .transport, timer := 0, inFlight := false, answers := later,
        trace := s.trace ++ [.txWrite s.devAddr p.ctrlReg command false], seq := .idle } u) : Runs (k + 1) s u :=
  runs_txWrite_fail hagenda hseq ha h

end

/-- The bits of the raw pressure that the mode keeps (R109). -/
theorem rawPressure_eq_upOf (mode : BitVec 2) (p0 p1 p2 : Byte) :
    BitVec.ofNat 32 (rawPressure mode [p0, p1, p2]) = upOf mode (p0 ++ p1 ++ p2) := by
  apply BitVec.eq_of_toNat_eq
  simp only [rawPressure, upOf, be24_triple, BitVec.toNat_ofNat, BitVec.toNat_setWidth, BitVec.toNat_ushiftRight]

/-- Settles O15: the sample leaves its two bytes in RXBUF, and the Exec commits their pattern. -/
theorem sampleTTakesOneSample : Obligations.SampleTTakesOneSample := by
  intro s w b0 b1 later ⟨hidle, hagenda⟩ hcal ha
  have hok : refusal .sampleT s = none := by simp [refusal, hcal]
  have hprog := congrArg (Seq.run .sampleT) (programOf_sampleT s.params s.mode)
  refine ⟨_, exec_accepted hidle hok, busy_acceptCommand _ _ _ _, rfl, ?_⟩
  refine runs_sample hagenda hprog (List.cons_ne_nil _ []) ha rfl (runs_exec_ok hagenda rfl rfl ?_)
  simp [acceptCommand, startClears, record, finish, be16_pair, sampleTEvents_eq, codeOf, hidle]

/-- Settles O16: the sample leaves its three bytes in RXBUF, and the Exec commits the bits that the mode keeps. -/
theorem samplePTakesOneSample : Obligations.SamplePTakesOneSample := by
  intro s w p0 p1 p2 later ⟨hidle, hagenda⟩ hcal ha
  have hok : refusal .sampleP s = none := by simp [refusal, hcal]
  have hprog := congrArg (Seq.run .sampleP) (programOf_sampleP s.params s.mode)
  refine ⟨_, exec_accepted hidle hok, busy_acceptCommand _ _ _ _, rfl, ?_⟩
  refine runs_sample hagenda hprog (List.cons_ne_nil _ []) ha rfl (runs_exec_ok hagenda rfl rfl ?_)
  simp [acceptCommand, startClears, record, finish, rawPressure_eq_upOf, samplePEvents_eq, codeOf, hidle]

/-- A command that begins with a sample keeps nothing of one that fails: only its start effects stay (R152, R158). -/
theorem exec_failed_sample {i : Instr} {s : State} {command : Byte} {settle n : Nat} {rest : List Slot} {w : List Byte}
    {bad : Answer} {later : List Answer} (hs : Quiet s) (hok : refusal i s = none)
    (hprog : programOf i s.params s.mode = sampleSlots s.params command settle n ++ rest) :
    (s.answers = .fail :: later →
        ∃ t, exec i s = .next t ∧ Runs 1 t
          { startClears i s with
            ovr := false, err := .transport, lastCmd := codeOf i, timer := 0, inFlight := false, answers := later,
            trace := s.trace ++ [.txWrite s.devAddr s.params.ctrlReg command false] })
      ∧ (badAnswer n bad → s.answers = .ok w :: bad :: later →
        ∃ t, exec i s = .next t ∧ Runs 3 t
          { startClears i s with
            ovr := false, err := .transport, lastCmd := codeOf i, timer := 0, inFlight := false, answers := later,
            trace := s.trace ++ sampleEvents s.params s.devAddr command settle n bad }) := by
  obtain ⟨hidle, hagenda⟩ := hs
  have hexec := exec_accepted hidle hok
  simp only [acceptCommand, startClears_eq, hprog] at hexec ⊢
  constructor
  · intro ha
    refine ⟨_, hexec, runs_sample_failed_write hagenda rfl ha ?_⟩
    simp [hidle]
  · intro hbad ha
    refine ⟨_, hexec, runs_sample_bad_read hagenda rfl ha hbad ?_⟩
    simp [hidle]

/-- Settles O17: SAMPLE_T begins with its sample, and its start effect is UT_VALID <- 0. -/
theorem failedSampleTLeavesNoSample : Obligations.FailedSampleTLeavesNoSample :=
  fun s _ _ _ hs hcal => exec_failed_sample hs (by simp [refusal, hcal]) (programOf_sampleT s.params s.mode)

/-- Settles O18: SAMPLE_P begins with its sample, and its start effect is UP_VALID <- 0. -/
theorem failedSamplePLeavesNoSample : Obligations.FailedSamplePLeavesNoSample :=
  fun s _ _ _ hs hcal => exec_failed_sample hs (by simp [refusal, hcal]) (programOf_sampleP s.params s.mode)

end Sys2Proof.Proofs
end

section
/-! The compensation chapter's statements: CompT (R172 to R174), CompP and Step11 (R175 to R180, R186), and the
commands COMP_T and COMP_P (R183, R184). A pipeline is a list of checks and a value (`outcome`): each stage has one
such equation, and a bind appends the lists. The two commands are lists of one Exec. -/

namespace Sys2Proof.Proofs

open Sys2Proof Sys2Proof.Machine Sys2Proof.Safety Sys2Proof.Spec Sys2Proof.Laws

/-! ### Lists of checks -/

/-- What a pipeline with these checks and this value answers: the error of the first check that fails, or the value
(R180). -/
def outcome {α : Type} (cs : List Check) (a : α) : Except ArithError α :=
  match cs.find? (fun c => !c.passes) with
  | some c => .error ⟨c.code, c.step⟩
  | none => .ok a

section

variable {α β : Type} {cs ds : List Check} {c : Check} {a : α} {b : β}

@[simp] theorem outcome_nil (a : α) : outcome [] a = .ok a := rfl

theorem outcome_cons_of_passes (h : c.passes = true) : outcome (c :: cs) a = outcome cs a := by
  simp [outcome, h]

theorem outcome_cons_of_fails (h : c.passes = false) : outcome (c :: cs) a = .error ⟨c.code, c.step⟩ := by
  simp [outcome, h]

theorem outcome_eq_ok {a' : α} : outcome cs a = .ok a' ↔ a' = a ∧ ∀ c ∈ cs, c.passes = true := by
  induction cs with
  | nil => simpa using eq_comm
  | cons c cs ih =>
    cases h : c.passes with
    | false => simp [outcome_cons_of_fails h, h]
    | true => simp [outcome_cons_of_passes h, h, ih]

theorem exists_of_outcome_eq_error {e : ArithError} (h : outcome cs a = .error e) : ∃ c ∈ cs, e = ⟨c.code, c.step⟩ := by
  unfold outcome at h
  split at h
  · next c hc => exact ⟨c, List.mem_of_find?_eq_some hc, (Except.error.inj h).symm⟩
  · cases h

/-- An error that only the first check raises says that it fails. -/
theorem outcome_cons_eq_error_iff (h : ∀ d ∈ cs, d.code ≠ c.code) :
    outcome (c :: cs) a = .error ⟨c.code, c.step⟩ ↔ c.passes = false := by
  refine ⟨fun he => ?_, outcome_cons_of_fails⟩
  by_contra hp
  rw [outcome_cons_of_passes (Bool.not_eq_false _ ▸ hp)] at he
  obtain ⟨d, hd, hcode⟩ := exists_of_outcome_eq_error he
  exact h d hd (ArithError.mk.inj hcode).1.symm

/-- A pipeline that goes on has the checks of both parts, in order. -/
theorem bind_eq_outcome {x : Except ArithError α} {f : α → Except ArithError β} (hx : x = outcome cs a)
    (hf : f a = outcome ds b) : x >>= f = outcome (cs ++ ds) b := by
  subst hx
  induction cs with
  | nil => exact hf
  | cons c cs ih =>
    cases h : c.passes with
    | false => rw [List.cons_append, outcome_cons_of_fails h, outcome_cons_of_fails h, error_bind]
    | true => rw [List.cons_append, outcome_cons_of_passes h, outcome_cons_of_passes h, ih]

@[simp] theorem signedLane_passes (st : PipeStep) (v : Int) :
    (signedLane st v).passes = true ↔ -2147483648 ≤ v ∧ v ≤ 2147483647 :=
  decide_eq_true_iff

@[simp] theorem unsignedLane_passes (st : PipeStep) (v : Int) :
    (unsignedLane st v).passes = true ↔ 0 ≤ v ∧ v ≤ 4294967295 :=
  decide_eq_true_iff

@[simp] theorem signedLane_code (st : PipeStep) (v : Int) : (signedLane st v).code = .range := rfl

@[simp] theorem unsignedLane_code (st : PipeStep) (v : Int) : (unsignedLane st v).code = .range := rfl

theorem outcome_signedLane_of_mem {st : PipeStep} {v : Int} (h : -2147483648 ≤ v ∧ v ≤ 2147483647) :
    outcome (signedLane st v :: cs) a = outcome cs a :=
  outcome_cons_of_passes (decide_eq_true h)

theorem outcome_signedLane_of_not_mem {st : PipeStep} {v : Int} (h : ¬(-2147483648 ≤ v ∧ v ≤ 2147483647)) :
    outcome (signedLane st v :: cs) a = .error ⟨.range, st⟩ :=
  outcome_cons_of_fails (decide_eq_false h)

theorem outcome_unsignedLane_of_mem {st : PipeStep} {v : Int} (h : 0 ≤ v ∧ v ≤ 4294967295) :
    outcome (unsignedLane st v :: cs) a = outcome cs a :=
  outcome_cons_of_passes (decide_eq_true h)

theorem outcome_unsignedLane_of_not_mem {st : PipeStep} {v : Int} (h : ¬(0 ≤ v ∧ v ≤ 4294967295)) :
    outcome (unsignedLane st v :: cs) a = .error ⟨.range, st⟩ :=
  outcome_cons_of_fails (decide_eq_false h)

theorem s32_eq_outcome (st : PipeStep) (v : Int) : s32 st v = outcome [signedLane st v] v := by
  by_cases h : -2147483648 ≤ v ∧ v ≤ 2147483647
  · rw [outcome_signedLane_of_mem h, outcome_nil, s32, if_pos h]
  · rw [outcome_signedLane_of_not_mem h, s32, if_neg h]

theorem u32_eq_outcome (st : PipeStep) (v : Int) : u32 st v = outcome [unsignedLane st v] v := by
  by_cases h : 0 ≤ v ∧ v ≤ 4294967295
  · rw [outcome_unsignedLane_of_mem h, outcome_nil, u32, if_pos h]
  · rw [outcome_unsignedLane_of_not_mem h, u32, if_neg h]

/-- The check of a divisor: the pipeline goes on where the divisor is not zero (R173, R179). -/
theorem guard_eq {p : Prop} [Decidable p] {st : PipeStep} {code : ErrCode} {x : Except ArithError α}
    (hx : ¬p → x = outcome cs a) : (if p then .error ⟨code, st⟩ else x) = outcome (⟨st, code, decide ¬p⟩ :: cs) a := by
  by_cases h : p
  · rw [if_pos h, outcome_cons_of_fails (decide_eq_false (not_not_intro h))]
  · rw [if_neg h, outcome_cons_of_passes (decide_eq_true h), hx h]

theorem s32_bind_eq {st : PipeStep} {v : Int} {f : Int → Except ArithError β} (hf : f v = outcome cs b) :
    s32 st v >>= f = outcome (signedLane st v :: cs) b :=
  bind_eq_outcome (s32_eq_outcome st v) hf

theorem u32_bind_eq {st : PipeStep} {v : Int} {f : Int → Except ArithError β} (hf : f v = outcome cs b) :
    u32 st v >>= f = outcome (unsignedLane st v :: cs) b :=
  bind_eq_outcome (u32_eq_outcome st v) hf

end

/-! ### CompT -/

theorem compT_eq_outcome (ut ac5 ac6 mc md : Int) :
    compT ut ac5 ac6 mc md =
      let t := (ut - ac6) * ac5
      let x1 := t / 32768
      let d := x1 + md
      let b5 := x1 + Int.tdiv (mc * 2048) d
      outcome [signedLane .t1a (ut - ac6), signedLane .t1b t, signedLane .t2a (mc * 2048), signedLane .t2b d,
        ⟨.t2, .div0T, d ≠ 0⟩, signedLane .t3 b5, signedLane .t4 (b5 + 8)] (b5, (b5 + 8) / 16) :=
  s32_bind_eq <| s32_bind_eq <| s32_bind_eq <| s32_bind_eq <| guard_eq fun _ => s32_bind_eq <| s32_bind_eq rfl

theorem toInt_mem_half (x : Half) : -32768 ≤ x.toInt ∧ x.toInt ≤ 32767 :=
  ⟨BitVec.le_toInt x, Int.le_of_lt_add_one BitVec.toInt_lt⟩

/-- Settles O19: for 16-bit inputs every check but T1b and the divisor's passes. -/
theorem compTClosedForm : Obligations.CompTClosedForm := by
  intro ut ac5 ac6 mc md t x1 d b5 result
  have hut := toInt_mem_half ut
  have hmc := toInt_mem_half mc
  have hmd := toInt_mem_half md
  have hac6 := ac6.isLt
  have hresult : result = outcome [signedLane .t1a (ut.toInt - ac6.toNat), signedLane .t1b t,
      signedLane .t2a (mc.toInt * 2048), signedLane .t2b d, ⟨.t2, .div0T, d ≠ 0⟩, signedLane .t3 b5,
      signedLane .t4 (b5 + 8)] (b5, (b5 + 8) / 16) := compT_eq_outcome ..
  rw [hresult, outcome_signedLane_of_mem (by omega)]
  by_cases ht : t < -2147483648 ∨ 2147483647 < t
  · rw [if_pos ht, outcome_signedLane_of_not_mem (by omega)]
  have hx1 : -65536 ≤ x1 ∧ x1 ≤ 65535 := by omega
  rw [if_neg ht, outcome_signedLane_of_mem (by omega), outcome_signedLane_of_mem (by omega),
    outcome_signedLane_of_mem (by omega)]
  by_cases hd : d = 0
  · rw [if_pos hd, outcome_cons_of_fails (decide_eq_false (not_not_intro hd))]
  have hx2 : (Int.tdiv (mc.toInt * 2048) d).natAbs ≤ (mc.toInt * 2048).natAbs := natAbs_tdiv_le _ _
  have hb5 : -67174400 ≤ b5 ∧ b5 ≤ 67174399 := by omega
  rw [if_neg hd, outcome_cons_of_passes (decide_eq_true hd), outcome_signedLane_of_mem (by omega),
    outcome_signedLane_of_mem (by omega), outcome_nil]

/-! ### TEMP_C -/

/-- A common factor of numerator and denominator changes no distance's order. -/
theorem nearest_of_scaled {c : Nat} (hc : 0 < c) {num : Int} {den : Nat} {r : F64}
    (h : Nearest (num * c) (den * c) r) : Nearest num den r := by
  obtain ⟨hfin, hnear⟩ := h
  have hscale : ∀ y, (num * c - (den * c : Nat) * f64Units y).natAbs = (num - den * f64Units y).natAbs * c := by
    intro y
    have hmul : num * c - (den * c : Nat) * f64Units y = (num - den * f64Units y) * c := by
      push_cast
      ring
    rw [hmul, Int.natAbs_mul, Int.natAbs_natCast]
  refine ⟨hfin, fun y hy => ?_⟩
  obtain ⟨hle, heven⟩ := hnear y hy
  rw [hscale, hscale] at hle heven
  exact ⟨Nat.le_of_mul_le_mul_right hle hc, fun he => heven (congrArg (· * c) he)⟩

theorem natAbs_mul_two_pow (i : Int) (n : Nat) : (i * 2 ^ n).natAbs = i.natAbs * 2 ^ n := by
  rw [Int.natAbs_mul, Int.natAbs_pow]
  rfl

/-- The quotient of two converted integers is one rounding of the exact quotient: both conversions are exact (R13). -/
theorem nearest_f64Div_ofInt (nan : F64) {i : Int} {j : Nat} (hi : i.natAbs < 2 ^ 53) (hj0 : 0 < j)
    (hj : j < 2 ^ 53) : Nearest (i * 2 ^ 1074) j (f64Div nan (f64OfInt i) (f64OfInt j)) := by
  obtain ⟨hfi, hui⟩ := integersConvertExactly i hi
  obtain ⟨hfj, huj⟩ := integersConvertExactly j (by rwa [Int.natAbs_natCast])
  have hunit : 0 < 2 ^ 1074 := by positivity
  have huj : f64Units (f64OfInt j) = ((j * 2 ^ 1074 : Nat) : Int) := by
    rw [huj, Nat.cast_mul, Nat.cast_pow, Nat.cast_ofNat]
  have hjunit : j * 2 ^ 1074 ≠ 0 := (Nat.mul_pos hj0 hunit).ne'
  have hlt : (f64Units (f64OfInt i)).natAbs * 2 ^ 1074 < (f64Units (f64OfInt j)).natAbs * overflowUnits := by
    rw [hui, huj, natAbs_mul_two_pow, Int.natAbs_natCast]
    have hover : i.natAbs * 2 ^ 1074 < overflowUnits := (units_lt_overflow hi).trans_eq (Nat.one_mul _)
    calc i.natAbs * 2 ^ 1074 * 2 ^ 1074
        < overflowUnits * 2 ^ 1074 := Nat.mul_lt_mul_of_pos_right hover hunit
      _ = 2 ^ 1074 * overflowUnits := Nat.mul_comm ..
      _ ≤ j * 2 ^ 1074 * overflowUnits := Nat.mul_le_mul_right _ (Nat.le_mul_of_pos_left _ hj0)
  have hnear := nearest_f64Div nan hfi hfj (by rwa [huj, Nat.cast_ne_zero]) hlt
  rw [huj, Int.sign_natCast_of_ne_zero hjunit, one_mul, Int.natAbs_natCast, hui] at hnear
  exact nearest_of_scaled hunit (by rwa [Nat.cast_pow, Nat.cast_ofNat])

theorem f64OfInt_ten : f64OfInt 10 = f64Ten := by decide +kernel

/-- Settles O21: TEMP_C is the quotient of T10 and 10, both converted exactly. -/
theorem tempCIsTheNearestTenth : Obligations.TempCIsTheNearestTenth := by
  refine ⟨fun t10 hlow hhigh => ?_, by decide +kernel, by decide +kernel⟩
  rw [tempCOf, ← f64OfInt_ten]
  exact nearest_f64Div_ofInt (j := 10) _ (by omega) (by decide) (by decide)

/-! ### The stages of CompP -/

/-- The quotient of step 11, by its branch (R176). -/
def step11Value (b7 b4 : Int) : Int :=
  if b7 < 0x80000000 then Int.tdiv (b7 * 2) b4 else Int.tdiv b7 b4 * 2

theorem step11Value_eq {b7 : Int} (h : 0 ≤ b7) (b4 : Int) :
    step11Value b7 b4 = if b7 < 0x80000000 then b7 * 2 / b4 else b7 / b4 * 2 := by
  rw [step11Value, Int.tdiv_eq_ediv_of_nonneg (by omega), Int.tdiv_eq_ediv_of_nonneg h]

/-- The lane checks of step 11, by its branch (R176). -/
def step11Lanes (b7 b4 : Int) : List Check :=
  if b7 < 0x80000000 then [unsignedLane .p11a (b7 * 2), signedLane .p11b (step11Value b7 b4)]
  else [unsignedLane .p11c (step11Value b7 b4), signedLane .p11d (step11Value b7 b4)]

/-- The pressure of steps 12 to 14 (R175). -/
def presOf (p : Int) : Int := p + (p / 256 * (p / 256) * 3038 / 65536 + -7357 * p / 65536 + 3791) / 16

/-- The sum of step 9, X3 + 32768 (R175, R179). -/
def step9Sum (b6 q ac3 b1 : Int) : Int := (ac3 * b6 / 8192 + b1 * q / 65536 + 2) / 4 + 32768

theorem compPStage1_eq (b5 ac1 ac2 b2 : Int) (mode : Nat) :
    compPStage1 b5 ac1 ac2 b2 mode =
      let b6 := b5 - 4000
      let q := b6 * b6 / 4096
      let x3 := b2 * q / 2048 + ac2 * b6 / 2048
      let a := (ac1 * 4 + x3) * 2 ^ mode
      outcome [signedLane .p1 b6, signedLane .p2a (b6 * b6), signedLane .p2b (b2 * q), signedLane .p3 (ac2 * b6),
        signedLane .p4 x3, signedLane .p5a (ac1 * 4), signedLane .p5b (ac1 * 4 + x3), signedLane .p5c a,
        signedLane .p5d (a + 2)] (b6, q, Int.tdiv (a + 2) 4) :=
  s32_bind_eq <| s32_bind_eq <| s32_bind_eq <| s32_bind_eq <| s32_bind_eq <| s32_bind_eq <| s32_bind_eq <|
    s32_bind_eq <| s32_bind_eq rfl

theorem compPStage2_eq (b6 q ac3 ac4 b1 : Int) :
    compPStage2 b6 q ac3 ac4 b1 =
      let y := ac3 * b6 / 8192 + b1 * q / 65536
      let u := step9Sum b6 q ac3 b1
      outcome [signedLane .p6 (ac3 * b6), signedLane .p7 (b1 * q), signedLane .p8a y, signedLane .p8b (y + 2),
        unsignedLane .p9a u, unsignedLane .p9b (ac4 * u)] (ac4 * u / 32768) :=
  s32_bind_eq <| s32_bind_eq <| s32_bind_eq <| s32_bind_eq <| u32_bind_eq <| u32_bind_eq rfl

theorem compPStage3_eq (up b3 : Int) (mode : Nat) :
    compPStage3 up b3 mode =
      outcome [unsignedLane .p10a (up - b3), unsignedLane .p10b ((up - b3) * (50000 / 2 ^ mode))]
        ((up - b3) * (50000 / 2 ^ mode)) :=
  u32_bind_eq (u32_eq_outcome _ _)

theorem step11_eq (b7 b4 : Int) :
    step11 b7 b4 = outcome (⟨.p11, .div0P, b4 ≠ 0⟩ :: step11Lanes b7 b4) (step11Value b7 b4) := by
  refine guard_eq fun _ => ?_
  unfold step11Lanes step11Value
  split
  · exact u32_bind_eq (s32_eq_outcome _ _)
  · exact u32_bind_eq (s32_eq_outcome _ _)

theorem compPStage4_eq (p : Int) :
    compPStage4 p =
      let x1 := p / 256 * (p / 256) * 3038
      let w := x1 / 65536 + -7357 * p / 65536
      outcome [signedLane .p12a (p / 256 * (p / 256)), signedLane .p12b x1, signedLane .p13 (-7357 * p),
        signedLane .p14a w, signedLane .p14b (w + 3791), signedLane .p14c (presOf p)] (presOf p) :=
  s32_bind_eq <| s32_bind_eq <| s32_bind_eq <| s32_bind_eq <| s32_bind_eq <| s32_eq_outcome _ _

/-- CompP is its listed checks and its last value: the checks of the five stages, appended. -/
theorem compP_eq_outcome (b5 up : Int) (mode : Nat) (ac1 ac2 ac3 ac4 b1 b2 : Int) :
    compP b5 up mode ac1 ac2 ac3 ac4 b1 b2 =
      outcome (compPChecks b5 up mode ac1 ac2 ac3 ac4 b1 b2).1 (compPChecks b5 up mode ac1 ac2 ac3 ac4 b1 b2).2 :=
  (bind_eq_outcome (compPStage1_eq b5 ac1 ac2 b2 mode) <| bind_eq_outcome (compPStage2_eq _ _ ac3 ac4 b1) <|
    bind_eq_outcome (compPStage3_eq up _ mode) <| bind_eq_outcome (step11_eq _ _) (compPStage4_eq _)).trans
    (congrArg (outcome · _) rfl)

/-- Settles O23: `compP_eq_outcome`, in the statement's words. -/
theorem compPReportsTheFirstFailingCheck : Obligations.CompPReportsTheFirstFailingCheck :=
  compP_eq_outcome

/-- Settles O22: the quotients of step 11 are those of numbers that are not negative, where truncation is the floor. -/
theorem compPFollowsTheFourteenSteps : Obligations.CompPFollowsTheFourteenSteps := by
  intro b5 up mode ac1 ac2 ac3 ac4 b1 b2 pres _ h
  obtain ⟨b6, q, b3, b4, b7, p, h1, h2, h3, h4, h5⟩ := compP_eq_ok.1 h
  obtain ⟨hb7, hb7'⟩ := compPStage3_mem h3
  have hb4 := compPStage2_nonneg h2
  have hb4' : 0 < b4 := lt_of_le_of_ne hb4 (step11_eq_ok h4).1.symm
  obtain ⟨hst1, -⟩ := outcome_eq_ok.1 ((compPStage1_eq ..).symm.trans h1)
  obtain ⟨rfl, -⟩ := outcome_eq_ok.1 ((compPStage2_eq ..).symm.trans h2)
  obtain ⟨rfl, -⟩ := outcome_eq_ok.1 ((compPStage3_eq ..).symm.trans h3)
  obtain ⟨rfl, -⟩ := outcome_eq_ok.1 ((step11_eq ..).symm.trans h4)
  obtain ⟨rfl, -⟩ := outcome_eq_ok.1 ((compPStage4_eq ..).symm.trans h5)
  cases hst1
  refine ⟨hb7, hb7', hb4', ?_⟩
  rw [step11Value_eq hb7]
  rfl

/-! ### Steps 9 to 11 in order -/

/-- With the products of steps 6 and 7 inside their lanes, only the two checks of step 9 are left of steps 6 to 9. -/
theorem compPStage2_of_products {b6 q ac3 b1 : Int} (ac4 : Int) (h6 : -2147483648 ≤ ac3 * b6)
    (h6' : ac3 * b6 ≤ 2147483647) (h7 : -2147483648 ≤ b1 * q) (h7' : b1 * q ≤ 2147483647) :
    compPStage2 b6 q ac3 ac4 b1 =
      outcome [unsignedLane .p9a (step9Sum b6 q ac3 b1), unsignedLane .p9b (ac4 * step9Sum b6 q ac3 b1)]
        (ac4 * step9Sum b6 q ac3 b1 / 32768) := by
  rw [compPStage2_eq, outcome_signedLane_of_mem ⟨h6, h6'⟩, outcome_signedLane_of_mem ⟨h7, h7'⟩,
    outcome_signedLane_of_mem (by omega), outcome_signedLane_of_mem (by omega)]

theorem step11Lanes_code (b7 b4 : Int) : ∀ c ∈ step11Lanes b7 b4, c.code = .range := by
  unfold step11Lanes
  split <;> simp

/-- From step 11 on, DIV0_P is the divisor's check alone (R179). -/
theorem step11_bind_eq_div0P_iff (b7 b4 : Int) :
    (step11 b7 b4 >>= compPStage4) = .error ⟨.div0P, .p11⟩ ↔ b4 = 0 := by
  rw [bind_eq_outcome (step11_eq b7 b4) (compPStage4_eq _), List.cons_append]
  have hcode : ∀ c ∈ step11Lanes b7 b4, c.code ≠ .div0P := fun c hc => by simp [step11Lanes_code b7 b4 c hc]
  exact (outcome_cons_eq_error_iff (by simpa [or_imp, forall_and] using hcode)).trans (by simp)

/-- Settles O24: the four lane checks of steps 9 and 10 come first, and B4 = 0 says that the product is below 32768. -/
theorem compPFaultsInStepOrder : Obligations.CompPFaultsInStepOrder := by
  intro b5 up mode ac1 ac2 ac3 ac4 b1 b2 b6 q b3 hst h6 h6' h7 h7' x3 u v b7 result
  have hresult : result = outcome [unsignedLane .p9a u, unsignedLane .p9b (ac4 * u)] (ac4 * u / 32768) >>= fun b4 =>
      outcome [unsignedLane .p10a v, unsignedLane .p10b b7] b7 >>= fun b7 => step11 b7 b4 >>= compPStage4 := by
    simp only [result, compP, hst, ok_bind, compPStage2_of_products ac4 h6 h6' h7 h7', compPStage3_eq]
    rfl
  have hu : u ≤ 4294967295 := by omega
  rw [hresult]
  by_cases h9a : u < 0
  · rw [if_pos h9a, outcome_unsignedLane_of_not_mem (by omega), error_bind]
  rw [if_neg h9a, outcome_unsignedLane_of_mem (by omega)]
  by_cases h9b : ac4 * u < 0 ∨ 4294967295 < ac4 * u
  · rw [if_pos h9b, outcome_unsignedLane_of_not_mem (by omega), error_bind]
  rw [if_neg h9b, outcome_unsignedLane_of_mem (by omega), outcome_nil, ok_bind]
  by_cases h10a : v < 0 ∨ 4294967295 < v
  · rw [if_pos h10a, outcome_unsignedLane_of_not_mem (by omega), error_bind]
  rw [if_neg h10a, outcome_unsignedLane_of_mem (by omega)]
  have hb7 : 0 ≤ b7 := Int.mul_nonneg (by omega) (Int.ediv_nonneg (by omega) (by positivity))
  by_cases h10b : 4294967295 < b7
  · rw [if_pos h10b, outcome_unsignedLane_of_not_mem (by omega), error_bind]
  rw [if_neg h10b, outcome_unsignedLane_of_mem (by omega), outcome_nil, ok_bind, step11_bind_eq_div0P_iff]
  omega

/-! ### Step 11 alone -/

/-- Step 11 returns its quotient wherever that is in the signed lane (R176). -/
theorem step11_of_value_le {b7 b4 : Int} (h7 : 0 ≤ b7) (h4 : 0 < b4) (hv : step11Value b7 b4 ≤ 2147483647) :
    step11 b7 b4 = .ok (step11Value b7 b4) := by
  have hv0 : 0 ≤ step11Value b7 b4 := by
    rw [step11Value_eq h7]
    split <;> positivity
  rw [step11_eq, outcome_cons_of_passes (decide_eq_true h4.ne')]
  unfold step11Lanes
  split <;> rw [outcome_unsignedLane_of_mem (by omega), outcome_signedLane_of_mem (by omega), outcome_nil]

/-- Settles O25: a divisor of at least 3 keeps the two quotients inside the signed lane. -/
theorem step11BoundaryReturns : Obligations.Step11BoundaryReturns := by
  refine ⟨fun b4 h3 _ => ?_, by decide, by decide⟩
  have hlow : 0xFFFFFFFE / b4 < 0x80000000 := (Int.ediv_lt_iff_lt_mul (by omega)).2 (by omega)
  have hhigh : 0x80000000 / b4 < 0x40000000 := (Int.ediv_lt_iff_lt_mul (by omega)).2 (by omega)
  have vlow : step11Value 0x7FFFFFFF b4 = 0xFFFFFFFE / b4 := step11Value_eq (by decide) b4
  have vhigh : step11Value 0x80000000 b4 = 2 * (0x80000000 / b4) :=
    (step11Value_eq (by decide) b4).trans (Int.mul_comm _ _)
  constructor
  · rw [← vlow]
    exact step11_of_value_le (by decide) (by omega) (by omega)
  · rw [← vhigh]
    exact step11_of_value_le (by decide) (by omega) (by omega)

/-- Settles O26: with B4 = 1 the quotient is twice B7, and the branch says which of its two checks fails. -/
theorem step11RangeAndCorners : Obligations.Step11RangeAndCorners := by
  refine ⟨fun b7 b4 p _ _ h4 _ h => ?_, fun b7 h7 _ => ⟨rfl, fun hlow hhigh => ?_, fun hhigh => ?_⟩, by decide,
    by decide⟩
  · obtain ⟨-, -, hp, -⟩ := step11_eq_ok h
    exact ⟨step11_nonneg h4 h, hp⟩
  · have hv : step11Value b7 1 = b7 * 2 := by rw [step11Value, if_pos hhigh, Int.tdiv_one]
    rw [step11_eq, outcome_cons_of_passes rfl, step11Lanes, if_pos hhigh, hv,
      outcome_unsignedLane_of_mem (by omega), outcome_signedLane_of_not_mem (by omega)]
  · have hbranch : ¬b7 < 0x80000000 := hhigh.not_gt
    have hv : step11Value b7 1 = b7 * 2 := by rw [step11Value, if_neg hbranch, Int.tdiv_one]
    rw [step11_eq, outcome_cons_of_passes rfl, step11Lanes, if_neg hbranch, hv,
      outcome_unsignedLane_of_not_mem (by omega)]

/-! ### The worked example -/

/-- Steps 12 to 14 return for a p that is not negative exactly up to 215295, where P12b's lane ends (R175). -/
theorem compPStage4_eq_ok_iff {p v : Int} (hp : 0 ≤ p) : compPStage4 p = .ok v ↔ v = presOf p ∧ p ≤ 215295 := by
  simp only [compPStage4_eq, outcome_eq_ok, List.forall_mem_cons, signedLane_passes, List.not_mem_nil, false_imp_iff,
    implies_true, and_true, and_congr_right_iff]
  rintro rfl
  have hr : 0 ≤ p / 256 := by omega
  have hsq : p / 256 * (p / 256) ≤ 706874 ↔ p / 256 ≤ 840 := ⟨fun _ => by nlinarith, fun _ => by nlinarith⟩
  have hsq0 : 0 ≤ p / 256 * (p / 256) := mul_self_nonneg _
  unfold presOf
  omega

theorem presOf_mono {p p' : Int} (hp : 0 ≤ p) (h : p ≤ p') : presOf p ≤ presOf p' := by
  have hsq : p / 256 * (p / 256) ≤ p' / 256 * (p' / 256) :=
    mul_self_le_mul_self (by omega) (Int.ediv_le_ediv (by decide) h)
  unfold presOf
  omega

/-- The example's step 11 as a function of UP - B3: its B4 is 33457, and B7 is 50000 times the difference. -/
def exampleQuotient (v : Int) : Int := step11Value (v * 50000) 33457

theorem exampleQuotient_nonneg {v : Int} (hv : 0 ≤ v) : 0 ≤ exampleQuotient v := by
  unfold exampleQuotient
  rw [step11Value_eq (by omega)]
  split <;> omega

theorem exampleQuotient_mono {v v' : Int} (hv : 0 ≤ v) (h : v ≤ v') : exampleQuotient v ≤ exampleQuotient v' := by
  unfold exampleQuotient
  rw [step11Value_eq (by omega), step11Value_eq (by omega)]
  split <;> split <;> omega

theorem exampleQuotient_le_iff {v : Int} (hv : 0 ≤ v) : exampleQuotient v ≤ 215295 ↔ v ≤ 72031 := by
  unfold exampleQuotient
  rw [step11Value_eq (by omega)]
  split <;> omega

theorem examplePressure_eq (up : Nat) :
    examplePressure up = compPStage3 up 422 0 >>= fun b7 => step11 b7 33457 >>= compPStage4 := by
  have h1 : compPStage1 2400 408 (-72) 4 0 = .ok (-1600, 625, 422) := by decide
  have h2 : compPStage2 (-1600) 625 (-14383) 32741 6190 = .ok 33457 := by decide
  simp only [examplePressure, compP, h1, h2, ok_bind]

theorem compPStage3_example_eq_ok_iff {up b7 : Int} : compPStage3 up 422 0 = .ok b7 ↔
    b7 = (up - 422) * 50000 ∧ 422 ≤ up ∧ (up - 422) * 50000 ≤ 4294967295 := by
  have hfactor : (50000 / 2 ^ 0 : Int) = 50000 := rfl
  simp only [compPStage3_eq, hfactor, outcome_eq_ok, List.forall_mem_cons, unsignedLane_passes, List.not_mem_nil,
    false_imp_iff, implies_true, and_true, and_congr_right_iff]
  omega

theorem examplePressure_eq_ok_iff {up : Nat} {v : Int} :
    examplePressure up = .ok v ↔ 422 ≤ up ∧ up ≤ 72453 ∧ v = presOf (exampleQuotient (up - 422)) := by
  rw [examplePressure_eq]
  constructor
  · intro h
    obtain ⟨b7, h3, h⟩ := bind_eq_ok.1 h
    obtain ⟨p, h4, h5⟩ := bind_eq_ok.1 h
    obtain ⟨rfl, hlow, -⟩ := compPStage3_example_eq_ok_iff.1 h3
    obtain ⟨hp, -⟩ := outcome_eq_ok.1 ((step11_eq ..).symm.trans h4)
    obtain rfl : p = exampleQuotient (up - 422) := hp
    obtain ⟨rfl, hq⟩ := (compPStage4_eq_ok_iff (exampleQuotient_nonneg (by omega))).1 h5
    have hhigh := (exampleQuotient_le_iff (by omega)).1 hq
    exact ⟨by omega, by omega, rfl⟩
  · rintro ⟨hlow, hhigh, rfl⟩
    have hq : exampleQuotient (up - 422) ≤ 215295 := (exampleQuotient_le_iff (by omega)).2 (by omega)
    have h4 : step11 ((up - 422) * 50000) 33457 = .ok (exampleQuotient (up - 422)) :=
      step11_of_value_le (by omega) (by decide) (hq.trans (by decide))
    rw [compPStage3_example_eq_ok_iff.2 ⟨rfl, by omega, by omega⟩, ok_bind, h4, ok_bind,
      compPStage4_eq_ok_iff (exampleQuotient_nonneg (by omega))]
    exact ⟨rfl, hq⟩

/-- Settles O27: `examplePressure_eq_ok_iff` says where it returns what, and below 422 the difference is negative. -/
theorem examplePressureIsMonotone : Obligations.ExamplePressureIsMonotone := by
  refine ⟨fun up _ => ?_, fun up1 up2 v1 v2 hle h1 h2 => ?_, fun up hup => ?_⟩
  · simp only [examplePressure_eq_ok_iff]
    exact ⟨fun ⟨_, hlow, hhigh, _⟩ => ⟨hlow, hhigh⟩, fun ⟨hlow, hhigh⟩ => ⟨_, hlow, hhigh, rfl⟩⟩
  · obtain ⟨hlow, -, rfl⟩ := examplePressure_eq_ok_iff.1 h1
    obtain ⟨-, -, rfl⟩ := examplePressure_eq_ok_iff.1 h2
    exact presOf_mono (exampleQuotient_nonneg (by omega)) (exampleQuotient_mono (by omega) (by omega))
  · rw [examplePressure_eq, compPStage3_eq, outcome_unsignedLane_of_not_mem (by omega), error_bind]

/-! ### COMP_T and COMP_P -/

theorem runs_exec_error {s u : State} {cmd : Instr} {rest : List Slot} {f : Prim} {e : ErrCode} {k : Nat}
    (hagenda : s.agenda = []) (hseq : s.seq = .run cmd (⟨none, .exec f⟩ :: rest))
    (hcommit : commitPrim f { s with timer := 0 } = .error e)
    (h : Runs k (raiseError e (record (.exec cmd f) { s with timer := 0 })) u) : Runs (k + 1) s u :=
  runs_runOp hagenda hseq (by simp only [runOp, runExec, hcommit]; exact h)

theorem compTOf_eq (s : State) : compTOf s = temperature s.cal s.ut := rfl

theorem compPOf_eq (s : State) : compPOf s = pressure s.cal s.mode s.b5.toInt s.up := rfl

theorem commitPrim_compT_of_ok {s : State} {b5 t10 : Int} (h : temperature s.cal s.ut = .ok (b5, t10)) :
    commitPrim .compT s = .ok { s with
      b5 := BitVec.ofInt 32 b5, b5Valid := true, t10 := BitVec.ofInt 32 t10, tempC := tempCOf t10,
      tValid := true } := by
  simp only [commitPrim, commitCompT, compTOf_eq, h]

theorem commitPrim_compT_of_error {s : State} {e : ArithError} (h : temperature s.cal s.ut = .error e) :
    commitPrim .compT s = .error e.code := by
  simp only [commitPrim, commitCompT, compTOf_eq, h]

theorem commitPrim_compP_of_ok {s : State} {pres : Int} (h : pressure s.cal s.mode s.b5.toInt s.up = .ok pres) :
    commitPrim .compP s = .ok { s with pres := BitVec.ofInt 32 pres, pValid := true } := by
  simp only [commitPrim, commitCompP, compPOf_eq, h]

theorem commitPrim_compP_of_error {s : State} {e : ArithError} (h : pressure s.cal s.mode s.b5.toInt s.up = .error e) :
    commitPrim .compP s = .error e.code := by
  simp only [commitPrim, commitCompP, compPOf_eq, h]

/-- Settles O20: the list is one Exec, and it commits what CompT answers. -/
theorem compTConsumesTheSample : Obligations.CompTConsumesTheSample := by
  intro s ⟨hidle, hagenda⟩ hcal hut
  have hok : refusal .compT s = none := by simp [refusal, hcal, hut]
  refine ⟨_, exec_accepted hidle hok, busy_acceptCommand _ _ _ _, ?_⟩
  split
  · next b5 t10 h =>
    refine runs_exec_ok hagenda rfl (commitPrim_compT_of_ok h) ?_
    simp [acceptCommand, startClears, record, finish, codeOf, hidle]
  · next e h =>
    refine runs_exec_error hagenda rfl (commitPrim_compT_of_error h) ?_
    simp [acceptCommand, startClears, record, raiseError, codeOf, hidle]

/-- Settles O28: the list is one Exec, and it commits what CompP answers. -/
theorem compPConsumesSampleAndB5 : Obligations.CompPConsumesSampleAndB5 := by
  intro s ⟨hidle, hagenda⟩ hcal hup hb5
  have hok : refusal .compP s = none := by simp [refusal, hcal, hup, hb5]
  refine ⟨_, exec_accepted hidle hok, busy_acceptCommand _ _ _ _, ?_⟩
  split
  · next pres h =>
    refine runs_exec_ok hagenda rfl (commitPrim_compP_of_ok h) ?_
    simp [acceptCommand, startClears, record, finish, codeOf, hidle]
  · next e h =>
    refine runs_exec_error hagenda rfl (commitPrim_compP_of_error h) ?_
    simp [acceptCommand, startClears, record, raiseError, codeOf, hidle]

end Sys2Proof.Proofs
end

section
/-! The altitude chapter's statements: POW's properties (R201), the special values of Altitude and SeaLevel (R203,
R204, R207), and the commands ALT and SLP (R205, R206). Each operation's answer for an infinite, zero or NaN operand is
one rule; a special value is a chain of these rules. -/

namespace Sys2Proof.Proofs

open Sys2Proof Sys2Proof.Machine Sys2Proof.Safety Sys2Proof.Spec Sys2Proof.Laws

/-! ### Classes of patterns -/

theorem f64IsNegative_iff {x : F64} :
    f64IsNegative x = true ↔ f64Sign x = true ∧ f64IsNaN x = false ∧ f64IsZero x = false := by
  simp [f64IsNegative, and_assoc]

theorem f64IsPositive_iff {x : F64} :
    f64IsPositive x = true ↔ f64Sign x = false ∧ f64IsNaN x = false ∧ f64IsZero x = false := by
  simp [f64IsPositive, and_assoc]

theorem not_isFinite_of_isNaN {x : F64} (h : f64IsNaN x = true) : f64IsFinite x = false := by
  simp_all [f64IsNaN, f64IsFinite]

theorem isFinite_of_isZero {x : F64} (h : f64IsZero x = true) : f64IsFinite x = true := by
  simp_all [f64IsZero, f64IsFinite]

theorem isInteger_of_isZero {x : F64} (h : f64IsZero x = true) : f64IsInteger x = true := by
  rw [f64IsInteger, isFinite_of_isZero h, (f64IsZero_iff x).1 h, Nat.zero_mod]
  rfl

theorem isInf_fields {x : F64} (h : f64IsInf x = true) :
    f64IsNaN x = false ∧ f64IsZero x = false ∧ f64IsFinite x = false := by
  simp_all [f64IsInf, f64IsNaN, f64IsZero, f64IsFinite]

theorem ne_one_of_not_isFinite {x : F64} (h : f64IsFinite x = false) : x ≠ f64One := by
  rintro rfl
  exact absurd h (by decide)

theorem ne_one_of_isZero {x : F64} (h : f64IsZero x = true) : x ≠ f64One := by
  rintro rfl
  exact absurd h (by decide)

theorem ne_one_of_isNegative {x : F64} (h : f64IsNegative x = true) : x ≠ f64One := by
  rintro rfl
  exact absurd h (by decide)

@[simp] theorem f64Sign_inf (s : Bool) : f64Sign (f64Inf s) = s := by cases s <;> decide

@[simp] theorem f64IsInf_inf (s : Bool) : f64IsInf (f64Inf s) = true := by cases s <;> decide

@[simp] theorem f64Sign_zero (s : Bool) : f64Sign (f64Zero s) = s := by cases s <;> decide

@[simp] theorem f64IsZero_zero (s : Bool) : f64IsZero (f64Zero s) = true := by cases s <;> decide

theorem f64IsFinite_zero (s : Bool) : f64IsFinite (f64Zero s) = true := isFinite_of_isZero (f64IsZero_zero s)

/-! ### The cases of POW -/

section

variable {x y : F64}

/-- POW-1. -/
theorem pow_one_left (y : F64) : pow f64One y = f64One := by
  rw [pow, if_pos rfl]

/-- POW-2. -/
theorem pow_of_isZero_right (x : F64) (hy : f64IsZero y = true) : pow x y = f64One := by
  rw [pow, if_pos hy, ite_self]

/-- POW-3. -/
theorem isNaN_pow_of_isNegative (hx : f64IsFinite x = true) (hneg : f64IsNegative x = true)
    (hy : f64IsFinite y = true) (hint : f64IsInteger y = false) : f64IsNaN (pow x y) = true := by
  have hy0 : f64IsZero y = false := by
    by_contra h
    simp [isInteger_of_isZero (Bool.of_not_eq_false h)] at hint
  have hnx := (isNaN_isInf_of_finite hx).1
  have hny := (isNaN_isInf_of_finite hy).1
  simp [pow, ne_one_of_isNegative hneg, hy0, hnx, hny, hx, hneg, hy, hint, isNaN_asNaN]

/-- POW-4. -/
theorem pow_of_isZero_left (hx : f64IsZero x = true) (hy : f64IsFinite y = true) (hpos : f64IsPositive y = true)
    (hodd : f64IsOddInteger y = false) : pow x y = f64Zero false := by
  obtain ⟨-, hny, hy0⟩ := f64IsPositive_iff.1 hpos
  have hnx := (isNaN_isInf_of_finite (isFinite_of_isZero hx)).1
  have hneg : f64IsNegative x = false := by simp [f64IsNegative, hx]
  simp [pow, ne_one_of_isZero hx, hy0, hnx, hny, hneg, hx, hy, hpos, hodd]

/-- POW-5. -/
theorem pow_of_isInf_left (hx : f64IsInf x = true) (hpos : f64IsPositive y = true)
    (hodd : f64IsOddInteger y = false) : pow x y = f64Inf false := by
  obtain ⟨-, hny, hy0⟩ := f64IsPositive_iff.1 hpos
  obtain ⟨hnx, hx0, hfin⟩ := isInf_fields hx
  simp [pow, ne_one_of_not_isFinite hfin, hy0, hnx, hny, hx0, hfin, hx, hpos, hodd]

/-- POW-6. -/
theorem isNaN_pow_of_isNaN (h : f64IsNaN x = true ∨ f64IsNaN y = true) (hx : x ≠ f64One)
    (hy : f64IsZero y = false) : f64IsNaN (pow x y) = true := by
  rw [pow, if_neg hx, hy, if_neg Bool.false_ne_true, if_pos (by simpa using h)]
  exact isNaN_asNaN _

/-- POW-7. -/
theorem not_isNaN_pow_of_isPositive (hx : f64IsFinite x = true) (hpos : f64IsPositive x = true)
    (hy : f64IsFinite y = true) : f64IsNaN (pow x y) = false := by
  by_cases hx1 : x = f64One
  · rw [hx1, pow_one_left]
    decide
  by_cases hy0 : f64IsZero y = true
  · rw [pow_of_isZero_right x hy0]
    decide
  obtain ⟨hsign, hnx, hx0⟩ := f64IsPositive_iff.1 hpos
  have hix := (isNaN_isInf_of_finite hx).2
  have hny := (isNaN_isInf_of_finite hy).1
  have hneg : f64IsNegative x = false := by simp [f64IsNegative, hsign]
  simp [pow, hx1, hy0, hnx, hny, hneg, hx0, hix, hx, hpos, hy, isNaN_asNumber]

end

/-! ### The exponents -/

/-- The two exponents PTCE uses (R201). -/
def IsExponent (y : F64) : Prop := y = expAlt ∨ y = Config.expSl

theorem expAlt_eq : expAlt = 0x3FC85B95CCD9456C := by decide +kernel

/-- POW-3, POW-4 and POW-5 apply to both exponents. -/
theorem isExponent_fields {y : F64} (h : IsExponent y) :
    f64IsFinite y = true ∧ f64IsPositive y = true ∧ f64IsInteger y = false := by
  obtain rfl | rfl := h
  · rw [expAlt_eq]
    decide +kernel
  · decide +kernel

/-- Settles O31: each property is one case of the model's definition. -/
theorem powHasItsRequiredProperties : Obligations.PowHasItsRequiredProperties :=
  ⟨pow_one_left, fun x _ => pow_of_isZero_right x, fun _ _ => isNaN_pow_of_isNegative, fun _ _ => pow_of_isZero_left,
    fun _ _ => pow_of_isInf_left, fun _ _ => isNaN_pow_of_isNaN, fun _ _ => not_isNaN_pow_of_isPositive, expAlt_eq,
    fun _ => isExponent_fields⟩

section

variable {x y : F64} (hy : IsExponent y)

include hy

theorem not_isOddInteger_of_isExponent : f64IsOddInteger y = false := by
  rw [f64IsOddInteger, (isExponent_fields hy).2.2, Bool.false_and]

theorem pow_zero_exponent (s : Bool) : pow (f64Zero s) y = f64Zero false := by
  obtain ⟨hfin, hpos, -⟩ := isExponent_fields hy
  exact pow_of_isZero_left (f64IsZero_zero s) hfin hpos (not_isOddInteger_of_isExponent hy)

theorem pow_inf_exponent (s : Bool) : pow (f64Inf s) y = f64Inf false := by
  obtain ⟨-, hpos, -⟩ := isExponent_fields hy
  exact pow_of_isInf_left (f64IsInf_inf s) hpos (not_isOddInteger_of_isExponent hy)

theorem isNaN_pow_exponent_of_isNegative (hx : f64IsFinite x = true) (hneg : f64IsNegative x = true) :
    f64IsNaN (pow x y) = true := by
  obtain ⟨hfin, -, hint⟩ := isExponent_fields hy
  exact isNaN_pow_of_isNegative hx hneg hfin hint

theorem isNaN_pow_exponent_of_isNaN (hx : f64IsNaN x = true) : f64IsNaN (pow x y) = true := by
  obtain ⟨-, hpos, -⟩ := isExponent_fields hy
  obtain ⟨-, -, hy0⟩ := f64IsPositive_iff.1 hpos
  exact isNaN_pow_of_isNaN (.inl hx) (ne_one_of_not_isFinite (not_isFinite_of_isNaN hx)) hy0

end

/-! ### The operations on zeros and infinities -/

section

variable (nan : F64) {a : F64} (ha : f64IsFinite a = true)

include ha

theorem f64Div_inf_right (s : Bool) : f64Div nan a (f64Inf s) = f64Zero (f64Sign a ^^ s) := by
  obtain ⟨hna, hia⟩ := isNaN_isInf_of_finite ha
  obtain ⟨hnb, -, -⟩ := isInf_fields (f64IsInf_inf s)
  simp [f64Div, hna, hia, hnb]

theorem f64Div_inf_left (s : Bool) : f64Div nan (f64Inf s) a = f64Inf (s ^^ f64Sign a) := by
  obtain ⟨hna, hia⟩ := isNaN_isInf_of_finite ha
  obtain ⟨hnb, -, -⟩ := isInf_fields (f64IsInf_inf s)
  simp [f64Div, hna, hia, hnb]

theorem f64Div_zero_right (h0 : f64IsZero a = false) (s : Bool) :
    f64Div nan a (f64Zero s) = f64Inf (f64Sign a ^^ s) := by
  obtain ⟨hna, hia⟩ := isNaN_isInf_of_finite ha
  obtain ⟨hnb, hib⟩ := isNaN_isInf_of_finite (f64IsFinite_zero s)
  simp [f64Div, hna, hia, hnb, hib, h0]

theorem f64Mul_inf_right (h0 : f64IsZero a = false) (s : Bool) :
    f64Mul nan a (f64Inf s) = f64Inf (f64Sign a ^^ s) := by
  obtain ⟨hna, hia⟩ := isNaN_isInf_of_finite ha
  obtain ⟨hnb, hb0, -⟩ := isInf_fields (f64IsInf_inf s)
  simp [f64Mul, hna, hia, hnb, hb0, h0]

theorem f64Sub_inf_right (s : Bool) : f64Sub nan a (f64Inf s) = f64Inf !s := by
  obtain ⟨hna, hia⟩ := isNaN_isInf_of_finite ha
  have hneg : f64Neg (f64Inf s) = f64Inf !s := f64Neg_pack s f64InfBits
  obtain ⟨hnb, -, -⟩ := isInf_fields (f64IsInf_inf !s)
  simp [f64Sub, f64Add, hneg, hna, hia, hnb]

/-- A finite difference is one rounding; an exact zero is -0.0 only for -0.0 less +0.0. -/
theorem f64Sub_of_isFinite {b : F64} (hb : f64IsFinite b = true) : f64Sub nan a b =
    if f64Units a - f64Units b = 0 then f64Zero (f64Sign a && !f64Sign b)
    else f64Round (decide (f64Units a - f64Units b < 0)) (f64Units a - f64Units b).natAbs 1 := by
  obtain ⟨hna, hia⟩ := isNaN_isInf_of_finite ha
  obtain ⟨hnb, hib⟩ := isNaN_isInf_of_finite (by rwa [f64IsFinite_neg] : f64IsFinite (f64Neg b) = true)
  obtain ⟨hsign, -, -⟩ := f64Neg_fields b
  simp [f64Sub, f64Add, hna, hia, hnb, hib, hsign, f64Neg_units, ← sub_eq_add_neg]

theorem f64Sub_self : f64Sub nan a a = f64Zero false := by
  rw [f64Sub_of_isFinite nan ha ha, if_pos (sub_self _), Bool.and_not_self]

theorem f64Div_self (h0 : f64Mag a ≠ 0) : f64Div nan a a = f64One := by
  have hscale := roundBits_scale (Nat.pos_of_ne_zero h0) (2 ^ 1074) 1
  rw [Nat.one_mul, Nat.mul_comm] at hscale
  rw [f64Div_eq_round nan ha ha h0, Bool.xor_self, f64Round, hscale]
  decide +kernel

end

theorem isFinite_one : f64IsFinite f64One = true := by decide

theorem f64Mag_one : f64Mag f64One = 1 * 2 ^ 1074 := by decide +kernel

theorem f64Sub_one_zero (nan : F64) (s : Bool) : f64Sub nan f64One (f64Zero s) = f64One := by
  rw [f64Sub_of_isFinite nan isFinite_one (f64IsFinite_zero s)]
  cases s <;> decide +kernel

/-! ### Roundings below zero -/

theorem f64Mag_lt_overflow {x : F64} (hx : f64IsFinite x = true) : f64Mag x < overflowUnits := by
  have hfrac := f64Frac_lt x
  have hexp := (f64IsFinite_iff x).1 hx
  have hmag : f64Mag x ≤ (2 ^ 53 - 1) * 2 ^ 2045 := by
    unfold f64Mag
    split
    · have := Nat.one_le_two_pow (n := 2045)
      omega
    · gcongr
      · omega
      · norm_num
      · omega
  refine hmag.trans_lt ?_
  rw [overflowUnits, Nat.pow_succ]
  have := Nat.one_le_two_pow (n := 2044)
  omega

/-- A rounding of a negative quotient that neither overflows nor is too small for any pattern is a negative value. -/
theorem isNegative_f64Round {num den : Nat} (hd : 0 < den) (hlow : den < 2 * num)
    (hfit : f64RoundBits num den < f64InfBits) :
    f64IsFinite (f64Round true num den) = true ∧ f64IsNegative (f64Round true num den) = true := by
  have hbits := roundBits_lt num den
  have hne := roundBits_ne_zero hd hlow
  have hfin : f64IsFinite (f64Round true num den) = true := f64IsFinite_pack true hfit
  refine ⟨hfin, f64IsNegative_iff.2 ⟨f64Sign_pack true hbits, (isNaN_isInf_of_finite hfin).1, ?_⟩⟩
  rw [f64Round, f64IsZero, f64Exp_pack true hbits, f64Frac_pack true hbits]
  simp only [Bool.and_eq_false_iff, beq_eq_false_iff_ne]
  omega

/-! ### The pressure as a binary64 value -/

section

variable {p : Int} (hp : 0 < p) (hmax : p ≤ 2147483647)

include hp hmax

theorem f64OfInt_fields : f64IsFinite (f64OfInt p) = true ∧ f64Sign (f64OfInt p) = false ∧
    f64Mag (f64OfInt p) = p.natAbs * 2 ^ 1074 := by
  obtain ⟨hfin, hunits⟩ := integersConvertExactly p (by omega)
  refine ⟨hfin, ?_, ?_⟩
  · rw [f64OfInt, f64Round, f64Sign_pack _ (roundBits_lt _ _)]
    simpa using hp.le
  · rw [← f64Units_natAbs, hunits, natAbs_mul_two_pow]

theorem f64Mag_ofInt_ne_zero : f64Mag (f64OfInt p) ≠ 0 := by
  obtain ⟨-, -, hmag⟩ := f64OfInt_fields hp hmax
  rw [hmag]
  exact Nat.mul_ne_zero (by omega) (by positivity)

theorem f64IsZero_ofInt : f64IsZero (f64OfInt p) = false := by
  rw [← Bool.not_eq_true, f64IsZero_iff]
  exact f64Mag_ofInt_ne_zero hp hmax

theorem f64Div_ofInt_one (nan : F64) : f64Div nan (f64OfInt p) f64One = f64OfInt p := by
  obtain ⟨hfin, hsign, hmag⟩ := f64OfInt_fields hp hmax
  have hscale := roundBits_scale (Nat.two_pow_pos 1074) (f64Mag (f64OfInt p)) 1
  have hsign1 : f64Sign f64One = decide (p < 0) := (decide_eq_false hp.not_gt).symm
  rw [f64Div_eq_round nan hfin isFinite_one (by rw [f64Mag_one]; positivity), f64Round, f64Mag_one, hscale, hsign,
    hmag, Bool.false_xor, hsign1, f64OfInt, f64Round]

end

/-! ### Altitude -/

/-- Altitude's chain past the power: K_ALT times 1.0 less it (R203). -/
theorem altitude_of_pow {n : Nat} {p : Int} {s ratio pw : F64} (hratio : f64Div (freshNaN n) (f64OfInt p) s = ratio)
    (hok : ¬ RatioOverflows ratio s) (hpow : pow ratio expAlt = pw) :
    altitude n p s = f64Mul (freshNaN (n + 2)) Config.kAlt (f64Sub (freshNaN (n + 1)) f64One pw) := by
  subst hratio hpow
  exact altitude_eq_formula hok

theorem kAlt_isFinite : f64IsFinite Config.kAlt = true := by decide

theorem f64Mul_kAlt_zero (nan : F64) : f64Mul nan Config.kAlt (f64Zero false) = 0 := by
  rw [f64Mul_eq_round nan kAlt_isFinite (f64IsFinite_zero false)]
  decide +kernel

theorem f64Mul_kAlt_one (nan : F64) : f64Mul nan Config.kAlt f64One = Config.kAlt := by
  rw [f64Mul_eq_round nan kAlt_isFinite isFinite_one]
  decide +kernel

theorem not_ratioOverflows_of_not_isNegative {ratio s : F64} (h : f64IsNegative s = false) :
    ¬ RatioOverflows ratio s :=
  fun ⟨_, hneg, _⟩ => Bool.false_ne_true (h.symm.trans hneg)

theorem isNaN_altitude_of_isNaN (n : Nat) (p : Int) {s : F64} (hs : f64IsNaN s = true) :
    f64IsNaN (altitude n p s) = true := by
  have hpos : f64IsNegative s = false := by simp [f64IsNegative, hs]
  apply isNaN_altitude
  obtain ⟨-, -, -, hdiv⟩ := f64_nan_operand (n := freshNaN n) (a := f64OfInt p) (.inr hs)
  rw [ratioPower_eq_pow (not_ratioOverflows_of_not_isNegative hpos), hdiv]
  exact isNaN_pow_exponent_of_isNaN (.inl rfl) (isNaN_freshNaN n)

section

variable {p : Int} (hp : 0 < p) (hmax : p ≤ 2147483647)

include hp hmax

theorem altitude_self (n : Nat) : altitude n p (f64OfInt p) = 0 := by
  obtain ⟨hfin, hsign, -⟩ := f64OfInt_fields hp hmax
  have hpos : f64IsNegative (f64OfInt p) = false := by simp [f64IsNegative, hsign]
  rw [altitude_of_pow (f64Div_self _ hfin (f64Mag_ofInt_ne_zero hp hmax)) (not_ratioOverflows_of_not_isNegative hpos)
    (pow_one_left _), f64Sub_self _ isFinite_one, f64Mul_kAlt_zero]

theorem altitude_inf (n : Nat) : altitude n p (f64Inf false) = Config.kAlt := by
  obtain ⟨hfin, -, -⟩ := f64OfInt_fields hp hmax
  rw [altitude_of_pow (f64Div_inf_right _ hfin false) (not_ratioOverflows_of_not_isNegative (by decide))
    (pow_zero_exponent (.inl rfl) _), f64Sub_one_zero, f64Mul_kAlt_one]

theorem altitude_zero (n : Nat) (s : Bool) : altitude n p (f64Zero s) = f64Inf true := by
  obtain ⟨hfin, -, -⟩ := f64OfInt_fields hp hmax
  have hpos : f64IsNegative (f64Zero s) = false := by simp [f64IsNegative]
  rw [altitude_of_pow (f64Div_zero_right _ hfin (f64IsZero_ofInt hp hmax) s)
    (not_ratioOverflows_of_not_isNegative hpos) (pow_inf_exponent (.inl rfl) _), f64Sub_inf_right _ isFinite_one,
    f64Mul_inf_right _ kAlt_isFinite (by decide)]
  rfl

/-- A finite sea-level pressure is too small to round the ratio of a pressure to it to a zero. -/
theorem f64Mag_lt_two_mul_ofInt {s : F64} (hs : f64IsFinite s = true) :
    f64Mag s < 2 * (f64Mag (f64OfInt p) * 2 ^ 1074) := by
  obtain ⟨-, -, hmag⟩ := f64OfInt_fields hp hmax
  have hlt := f64Mag_lt_overflow hs
  have hone : 1 * 2 ^ 1074 ≤ p.natAbs * 2 ^ 1074 := Nat.mul_le_mul_right _ (by omega)
  have hunit : 1 * 2 ^ 1074 * 2 ^ 1074 ≤ p.natAbs * 2 ^ 1074 * 2 ^ 1074 := Nat.mul_le_mul_right _ hone
  have hover : overflowUnits < 1 * 2 ^ 1074 * 2 ^ 1074 := by decide +kernel
  rw [hmag]
  omega

/-- Under a finite negative sea-level pressure the ratio is -inf, the case of log 10, or a finite negative value. -/
theorem isNaN_altitude_of_isNegative (n : Nat) {s : F64} (hs : f64IsFinite s = true) (hneg : f64IsNegative s = true) :
    f64IsNaN (altitude n p s) = true := by
  obtain ⟨hfin, hsign, -⟩ := f64OfInt_fields hp hmax
  obtain ⟨hsigns, -, hs0⟩ := f64IsNegative_iff.1 hneg
  have hmag : f64Mag s ≠ 0 := by rwa [← Bool.not_eq_true, f64IsZero_iff] at hs0
  have hdiv := f64Div_eq_round (freshNaN n) hfin hs hmag
  rw [hsign, hsigns, Bool.false_xor] at hdiv
  apply isNaN_altitude
  rw [hdiv]
  obtain hover | hfit := (roundBits_le (f64Mag (f64OfInt p) * 2 ^ 1074) (f64Mag s)).eq_or_lt
  · rw [f64Round, hover, ratioPower_eq_nan (ratio := f64Pack true f64InfBits) ⟨hs, hneg, rfl⟩]
    exact isNaN_freshNaN n
  · obtain ⟨hrfin, hrneg⟩ :=
      isNegative_f64Round (Nat.pos_of_ne_zero hmag) (f64Mag_lt_two_mul_ofInt hp hmax hs) hfit
    rw [ratioPower_eq_pow fun ⟨_, _, hinf⟩ => absurd (hinf ▸ hrfin) (by decide)]
    exact isNaN_pow_exponent_of_isNegative (.inl rfl) hrfin hrneg

end

/-- Settles O32: each value is the chain of its operations' rules. -/
theorem altitudeSpecialValues : Obligations.AltitudeSpecialValues := fun n _ hp hmax =>
  ⟨altitude_self hp hmax n, altitude_inf hp hmax n, altitude_zero hp hmax n false, altitude_zero hp hmax n true,
    fun _ => isNaN_altitude_of_isNaN n _, fun _ => isNaN_altitude_of_isNegative hp hmax n⟩

/-! ### SeaLevel -/

/-- SeaLevel's chain past the power: the pressure over it (R204). -/
theorem seaLevel_of_pow {n : Nat} {p : Int} {alt q base pw : F64} (hq : f64Div (freshNaN n) alt Config.kSl = q)
    (hbase : f64Sub (freshNaN (n + 1)) f64One q = base) (hpow : pow base Config.expSl = pw) :
    seaLevel n alt p = f64Div (freshNaN (n + 2)) (f64OfInt p) pw := by
  subst hq hbase hpow
  rfl

theorem isNaN_seaLevel_of_pow {n : Nat} {p : Int} {alt q base : F64} (hq : f64Div (freshNaN n) alt Config.kSl = q)
    (hbase : f64Sub (freshNaN (n + 1)) f64One q = base) (hpow : f64IsNaN (pow base Config.expSl) = true) :
    f64IsNaN (seaLevel n alt p) = true := by
  obtain ⟨-, -, -, hdiv⟩ := f64_nan_operand (n := freshNaN (n + 2)) (a := f64OfInt p) (.inr hpow)
  rw [seaLevel_of_pow hq hbase rfl, hdiv]
  exact isNaN_freshNaN _

theorem isNaN_seaLevel_of_isNaN (n : Nat) (p : Int) {alt : F64} (halt : f64IsNaN alt = true) :
    f64IsNaN (seaLevel n alt p) = true := by
  obtain ⟨-, -, -, hdiv⟩ := f64_nan_operand (n := freshNaN n) (b := Config.kSl) (.inl halt)
  obtain ⟨-, hsub, -, -⟩ := f64_nan_operand (n := freshNaN (n + 1)) (a := f64One) (.inr (isNaN_freshNaN n))
  exact isNaN_seaLevel_of_pow hdiv hsub (isNaN_pow_exponent_of_isNaN (.inr rfl) (isNaN_freshNaN _))

theorem kSl_isFinite : f64IsFinite Config.kSl = true := by decide

theorem f64Mag_kSl : f64Mag Config.kSl = 44330 * 2 ^ 1074 := by decide +kernel

theorem f64Mag_kSl_ne_zero : f64Mag Config.kSl ≠ 0 := by
  rw [f64Mag_kSl]
  positivity

theorem f64Units_kSl : f64Units Config.kSl = ((44330 * 2 ^ 1074 : Nat) : Int) := by decide +kernel

theorem f64Div_zero_kSl (nan : F64) (s : Bool) : f64Div nan (f64Zero s) Config.kSl = f64Zero s := by
  rw [f64Div_eq_round nan (f64IsFinite_zero s) kSl_isFinite f64Mag_kSl_ne_zero]
  cases s <;> decide +kernel

section

variable {p : Int} (hp : 0 < p) (hmax : p ≤ 2147483647)

include hp hmax

theorem seaLevel_zero (n : Nat) (s : Bool) : seaLevel n (f64Zero s) p = f64OfInt p := by
  rw [seaLevel_of_pow (f64Div_zero_kSl _ s) (f64Sub_one_zero _ s) (pow_one_left _), f64Div_ofInt_one hp hmax]

theorem seaLevel_kSl (n : Nat) : seaLevel n Config.kSl p = f64Inf false := by
  obtain ⟨hfin, hsign, -⟩ := f64OfInt_fields hp hmax
  rw [seaLevel_of_pow (f64Div_self _ kSl_isFinite f64Mag_kSl_ne_zero) (f64Sub_self _ isFinite_one)
    (pow_zero_exponent (.inr rfl) _), f64Div_zero_right _ hfin (f64IsZero_ofInt hp hmax), hsign]
  rfl

theorem seaLevel_inf (n : Nat) (s : Bool) : seaLevel n (f64Inf s) p = f64Zero false := by
  obtain ⟨hfin, hsign, -⟩ := f64OfInt_fields hp hmax
  rw [seaLevel_of_pow (f64Div_inf_left _ kSl_isFinite s) (f64Sub_inf_right _ isFinite_one _)
    (pow_inf_exponent (.inr rfl) _), f64Div_inf_right _ hfin, hsign]
  rfl

end

/-! ### Altitudes above 44330.0 -/

/-- The values next to 44330.0 lie 2^1037 units apart. -/
theorem units_gap_above_kSl {a : F64} (habove : f64Units Config.kSl < f64Units a) :
    f64Units Config.kSl + (2 ^ 1037 : Nat) ≤ f64Units a := by
  have hbinade : 2 ^ (52 + 1037) ≤ 44330 * 2 ^ 1074 := by decide +kernel
  have hmag : 44330 * 2 ^ 1074 < f64Mag a := by
    rw [f64Units_kSl] at habove
    rw [← f64Units_natAbs]
    omega
  have hdvd : ((2 ^ 1037 : Nat) : Int) ∣ f64Units a := by
    rw [Int.natCast_dvd, f64Units_natAbs]
    exact dvd_mag (.inr (hbinade.trans hmag.le))
  have hdvdK : ((2 ^ 1037 : Nat) : Int) ∣ f64Units Config.kSl := by decide +kernel
  exact le_sub_iff_add_le'.1 (Int.le_of_dvd (sub_pos.2 habove) (dvd_sub hdvd hdvdK))

/-- A quotient by 44330.0 that exceeds 1.0 by so much is rounded above 1.0: the value next above 1.0 is nearer. -/
theorem one_lt_of_nearest {v : Int} {q : F64} (hv : f64Units Config.kSl + (2 ^ 1037 : Nat) ≤ v)
    (h : Nearest v 44330 q) : f64Units f64One < f64Units q := by
  obtain ⟨-, hnear⟩ := h
  obtain ⟨hle, -⟩ := hnear 0x3FF0000000000001 (by decide)
  have hw : (0 : Int) < 2 ^ 1022 := by positivity
  have hone : f64Units f64One = 2 ^ 52 * 2 ^ 1022 := by decide +kernel
  have hnext : f64Units 0x3FF0000000000001 = (2 ^ 52 + 1) * 2 ^ 1022 := by decide +kernel
  have hk : f64Units Config.kSl + (2 ^ 1037 : Nat) = (44330 * 2 ^ 52 + 2 ^ 15) * 2 ^ 1022 := by decide +kernel
  rw [hnext] at hle
  rw [hk] at hv
  rw [hone]
  generalize (2 : Int) ^ 1022 = w at *
  omega

theorem one_lt_f64Div_kSl (nan : F64) {a : F64} (ha : f64IsFinite a = true)
    (habove : f64Units Config.kSl < f64Units a) :
    f64IsFinite (f64Div nan a Config.kSl) = true ∧ f64Units f64One < f64Units (f64Div nan a Config.kSl) := by
  have hlt : (f64Units a).natAbs * 2 ^ 1074 < (f64Units Config.kSl).natAbs * overflowUnits := by
    rw [f64Units_natAbs, f64Units_natAbs, f64Mag_kSl]
    have hover := f64Mag_lt_overflow ha
    calc f64Mag a * 2 ^ 1074
        < overflowUnits * 2 ^ 1074 := Nat.mul_lt_mul_of_pos_right hover (by positivity)
      _ = 2 ^ 1074 * overflowUnits := Nat.mul_comm ..
      _ ≤ 44330 * 2 ^ 1074 * overflowUnits := Nat.mul_le_mul_right _ (Nat.le_mul_of_pos_left _ (by decide))
  have hnear := nearest_f64Div nan ha kSl_isFinite (by decide +kernel) hlt
  rw [show (f64Units Config.kSl).sign = 1 by decide +kernel, one_mul, f64Units_natAbs, f64Mag_kSl] at hnear
  have hunit : 0 < 2 ^ 1074 := by positivity
  have hquot : Nearest (f64Units a) 44330 (f64Div nan a Config.kSl) :=
    nearest_of_scaled hunit (by rwa [Nat.cast_pow, Nat.cast_ofNat])
  exact ⟨hquot.1, one_lt_of_nearest (units_gap_above_kSl habove) hquot⟩

/-- 1.0 less a finite value above it is a finite negative value. -/
theorem isNegative_f64Sub_one (nan : F64) {q : F64} (hq : f64IsFinite q = true)
    (hgt : f64Units f64One < f64Units q) :
    f64IsFinite (f64Sub nan f64One q) = true ∧ f64IsNegative (f64Sub nan f64One q) = true := by
  have hone : 0 < f64Units f64One := by decide +kernel
  have hover := f64Mag_lt_overflow hq
  rw [← f64Units_natAbs] at hover
  have hfit : f64RoundBits (f64Units f64One - f64Units q).natAbs 1 < f64InfBits := by
    refine (roundBits_nearest Nat.one_pos ?_).1
    rw [← overflowUnits]
    omega
  rw [f64Sub_of_isFinite nan isFinite_one hq, if_neg (by omega), decide_eq_true (by omega)]
  exact isNegative_f64Round Nat.one_pos (by omega) hfit

theorem isNaN_seaLevel_of_above (n : Nat) (p : Int) {a : F64} (ha : f64IsFinite a = true)
    (habove : f64Units Config.kSl < f64Units a) : f64IsNaN (seaLevel n a p) = true := by
  obtain ⟨hqfin, hgt⟩ := one_lt_f64Div_kSl (freshNaN n) ha habove
  obtain ⟨hfin, hneg⟩ := isNegative_f64Sub_one (freshNaN (n + 1)) hqfin hgt
  exact isNaN_seaLevel_of_pow rfl rfl (isNaN_pow_exponent_of_isNegative (.inr rfl) hfin hneg)

/-- Settles O33: each value is the chain of its operations' rules. -/
theorem seaLevelSpecialValues : Obligations.SeaLevelSpecialValues := fun n p hp hmax =>
  ⟨seaLevel_zero hp hmax n false, seaLevel_zero hp hmax n true, seaLevel_kSl hp hmax n,
    fun _ => isNaN_seaLevel_of_above n p, seaLevel_inf hp hmax n true, seaLevel_inf hp hmax n false,
    fun _ => isNaN_seaLevel_of_isNaN n p⟩

/-! ### ALT and SLP -/

/-- Settles O34: the list is one Exec, and its commit cannot fail. -/
theorem altWritesTheAltitude : Obligations.AltWritesTheAltitude := by
  intro s ⟨hidle, hagenda⟩ hcal hp
  have hok : refusal .alt s = none := by simp [refusal, hcal, hp]
  refine ⟨_, exec_accepted hidle hok, busy_acceptCommand _ _ _ _, rfl, runs_exec_ok hagenda rfl rfl ?_⟩
  simp [acceptCommand, startClears, record, finish, codeOf, hidle]

/-- Settles O35: the list is one Exec, and its commit cannot fail. -/
theorem slpWritesTheSeaLevelPressure : Obligations.SlpWritesTheSeaLevelPressure := by
  intro s ⟨hidle, hagenda⟩ hcal hp
  have hok : refusal .slp s = none := by simp [refusal, hcal, hp]
  refine ⟨_, exec_accepted hidle hok, busy_acceptCommand _ _ _ _, rfl, runs_exec_ok hagenda rfl rfl ?_⟩
  simp [acceptCommand, startClears, record, finish, codeOf, hidle]

end Sys2Proof.Proofs
end

section
/-! The public commands' statements: how they end (R220, R246), what they leave where every phase succeeds (R221 to
R224), and what a failing phase leaves. Each phase is one rule about `Runs`, said for any command and any list that goes
on after it; a public command is a chain of these rules. -/

namespace Sys2Proof.Proofs

open Sys2Proof Sys2Proof.Machine Sys2Proof.Safety Sys2Proof.Spec Sys2Proof.Laws

/-! ### The errors of a running command -/

/-- The errors that can end a command once it is accepted (R220, R246). -/
def RunError (e : ErrCode) : Prop :=
  e = .none ∨ e = .transport ∨ e = .div0T ∨ e = .div0P ∨ e = .range

theorem runError_uopEffect {cmd : Instr} {op : UOp} {s u : State} {e : ErrCode}
    (h : uopEffect cmd op s = some (some e, u)) : RunError e := by
  obtain rfl | rfl | rfl | rfl := uopEffect_error h <;> simp [RunError]

theorem runError_runOp (cmd : Instr) (op : UOp) (rest : List Slot) {s : State} (herr : s.err = .none) :
    RunError (runOp cmd op rest s).err := by
  obtain ⟨-, hrun⟩ | ⟨e, u, heff, hrun⟩ | ⟨u, heff, hrun⟩ := runOp_cases cmd op rest s <;> rw [hrun]
  · exact .inl herr
  · exact runError_uopEffect heff
  · obtain ⟨-, hadv⟩ | ⟨-, hadv⟩ := advance_cases cmd rest u <;> rw [hadv]
    · exact .inl rfl
    · exact .inl ((uopEffect_err heff).trans herr)

/-- Settles O52: coherence rules out the usage errors, since no phase of the running command is refused
(`InCommand.phaseRefusal_eq_none`), and a µop raises none of them (`uopEffect_error`). -/
theorem acceptedCommandsNeverEndInAUsageError : Obligations.AcceptedCommandsNeverEndInAUsageError := by
  intro s t h hbusy hagenda hstep
  rw [step_of_agenda_nil hagenda] at hstep
  cases hstep
  rcases hseq : s.seq with _ | ⟨cmd, _ | ⟨slot, rest⟩⟩
  · simp [busy, hseq] at hbusy
  · obtain ⟨-, hc⟩ := (coherent_run_iff hseq).1 h
    cases hc.tail
  · obtain ⟨-, hc⟩ := (coherent_run_iff hseq).1 h
    have hc₀ : InCommand cmd (slot :: rest) { s with timer := 0 } := { hc with }
    rw [engineStep_run hseq]
    simp only [runSlot, beginPhase_of_ready hc₀.phaseRefusal_eq_none]
    exact runError_runOp cmd slot.op rest hc₀.begin.err

/-! ### Phases -/

/-- `advance` takes everything but SEQ from the state before. -/
theorem advance_congr {cmd : Instr} {rest : List Slot} {u v : State}
    (h : { u with seq := .idle } = { v with seq := .idle }) : advance cmd rest u = advance cmd rest v := by
  cases rest with
  | nil => exact (congrArg finish h :)
  | cons x xs => exact congrArg (fun s : State => { s with seq := .run cmd (x :: xs) }) h

theorem runs_advance_congr {cmd : Instr} {rest : List Slot} {k : Nat} {u v w : State}
    (h : Runs k (advance cmd rest v) w) (huv : { u with seq := .idle } = { v with seq := .idle }) :
    Runs k (advance cmd rest u) w :=
  (advance_congr huv).symm ▸ h

@[simp] theorem advance_phaseList (cmd : Instr) (p : Prim) (op : UOp) (ops : List UOp) (rest : List Slot) (s : State) :
    advance cmd (phaseList p (op :: ops) ++ rest) s = { s with seq := .run cmd (phaseList p (op :: ops) ++ rest) } :=
  rfl

/-- A write transaction takes nothing from SEQ but its command and the rest of the list. -/
theorem runTxWrite_seq (cmd : Instr) (reg val : Byte) (rest : List Slot) (q : Seq) (s : State) :
    runTxWrite cmd reg val rest { s with seq := q } = runTxWrite cmd reg val rest s := by
  simp only [runTxWrite]
  split
  · exact advance_congr rfl
  all_goals rfl

section

variable {s t u : State} {cmd : Instr} {p : Prim} {rest : List Slot} {later : List Answer} {k : Nat}

/-- A phase whose preconditions hold begins with its first µop, on the state its start leaves (R220 item 3). -/
theorem runs_phase {op : UOp} (hagenda : s.agenda = []) (hseq : s.seq = .run cmd (⟨some p, op⟩ :: rest))
    (hok : refusal (commandOfPhase p) s = none)
    (h : Runs k (runOp cmd op rest (startClears (commandOfPhase p) { s with timer := 0 })) u) : Runs (k + 1) s u := by
  have hok₀ : phaseRefusal (some p) { s with timer := 0 } = none := (phaseRefusal_timer (some p) 0 s).trans hok
  rw [runs_engine_succ k hagenda, engineStep_run hseq]
  simp only [runSlot, beginPhase_of_ready hok₀]
  exact h

theorem runs_phase_exec_ok (hagenda : s.agenda = []) (hseq : s.seq = .run cmd (⟨some p, .exec p⟩ :: rest))
    (hok : refusal (commandOfPhase p) s = none)
    (hcommit : commitPrim p (startClears (commandOfPhase p) { s with timer := 0 }) = .ok t)
    (h : Runs k (advance cmd rest (record (.exec cmd p) t)) u) : Runs (k + 1) s u :=
  runs_phase hagenda hseq hok (by simp only [runOp, runExec, hcommit]; exact h)

theorem runs_phase_exec_error {e : ErrCode} (hagenda : s.agenda = [])
    (hseq : s.seq = .run cmd (⟨some p, .exec p⟩ :: rest)) (hok : refusal (commandOfPhase p) s = none)
    (hcommit : commitPrim p (startClears (commandOfPhase p) { s with timer := 0 }) = .error e)
    (h : Runs k (raiseError e (record (.exec cmd p) (startClears (commandOfPhase p) { s with timer := 0 }))) u) :
    Runs (k + 1) s u :=
  runs_phase hagenda hseq hok (by simp only [runOp, runExec, hcommit]; exact h)

/-- A phase that begins with a write runs as if its start had happened before its first µop. -/
theorem runs_phase_txWrite {reg val : Byte} (hagenda : s.agenda = [])
    (hseq : s.seq = .run cmd (⟨some p, .txWrite reg val⟩ :: rest)) (hok : refusal (commandOfPhase p) s = none)
    (h : Runs (k + 1)
      { startClears (commandOfPhase p) s with seq := .run cmd (⟨none, .txWrite reg val⟩ :: rest) } u) :
    Runs (k + 1) s u := by
  refine runs_phase hagenda hseq hok ?_
  rw [startClears_eq] at h ⊢
  rw [runs_engine_succ k (by exact hagenda), engineStep_run rfl, runSlot_none] at h
  exact (congrArg (Runs k · u) (runTxWrite_seq cmd reg val rest _ _)).mp h

/-- SAMPLE_T begins: UT_VALID falls, and its µops are those of a sample (R150). -/
theorem runs_sampleT_begin (hagenda : s.agenda = [])
    (hseq : s.seq = .run cmd (phaseList .sampleT (uopsSampleT s.params) ++ rest)) (hcal : s.calValid = true)
    (h : Runs (k + 1)
      { s with
        utValid := false
        seq := .run cmd (sampleSlots s.params s.params.cmdTemp s.params.tSettleT 2 ++ ⟨none, .exec .sampleT⟩ :: rest) }
      u) : Runs (k + 1) s u :=
  runs_phase_txWrite hagenda hseq (if_pos hcal) h

/-- SAMPLE_P begins: UP_VALID falls, and its µops are those of a sample in the mode (R155). -/
theorem runs_sampleP_begin (hagenda : s.agenda = [])
    (hseq : s.seq = .run cmd (phaseList .sampleP (uopsSampleP s.params s.mode) ++ rest)) (hcal : s.calValid = true)
    (h : Runs (k + 1)
      { s with
        upValid := false
        seq := .run cmd (sampleSlots s.params (presCommand s.params s.mode) (settleP s.params s.mode) 3
          ++ ⟨none, .exec .sampleP⟩ :: rest) }
      u) : Runs (k + 1) s u := by
  refine runs_phase_txWrite hagenda hseq (if_pos hcal) ?_
  rw [presCommand, ← presByte_eq, settleP, ← modeGet_eq] at h
  exact h

theorem runs_sampleT {w : List Byte} {b0 b1 : Byte} (hagenda : s.agenda = [])
    (hseq : s.seq = .run cmd (phaseList .sampleT (uopsSampleT s.params) ++ rest)) (hcal : s.calValid = true)
    (ha : s.answers = .ok w :: .ok [b0, b1] :: later)
    (h : Runs k (advance cmd rest
      { s with
        ut := b0 ++ b1, utValid := true, rxbuf := [b0, b1], timer := 0, inFlight := false, answers := later,
        trace := s.trace ++ sampleTEvents s cmd b0 b1 }) u) : Runs (k + 4) s u := by
  refine runs_sampleT_begin hagenda hseq hcal (runs_sample hagenda rfl (List.cons_ne_nil _ _) ha rfl ?_)
  refine runs_exec_ok hagenda rfl rfl (runs_advance_congr h ?_)
  simp [record, be16_pair, sampleTEvents_eq]

theorem runs_sampleP {w : List Byte} {p0 p1 p2 : Byte} (hagenda : s.agenda = [])
    (hseq : s.seq = .run cmd (phaseList .sampleP (uopsSampleP s.params s.mode) ++ rest)) (hcal : s.calValid = true)
    (ha : s.answers = .ok w :: .ok [p0, p1, p2] :: later)
    (h : Runs k (advance cmd rest
      { s with
        up := upOf s.mode (p0 ++ p1 ++ p2), upValid := true, rxbuf := [p0, p1, p2], timer := 0, inFlight := false,
        answers := later, trace := s.trace ++ samplePEvents s cmd p0 p1 p2 }) u) : Runs (k + 4) s u := by
  refine runs_sampleP_begin hagenda hseq hcal (runs_sample hagenda rfl (List.cons_ne_nil _ _) ha rfl ?_)
  refine runs_exec_ok hagenda rfl rfl (runs_advance_congr h ?_)
  simp [record, rawPressure_eq_upOf, samplePEvents_eq]

end

/-! ### The phases of READ_TEMPERATURE and READ_PRESSURE -/

theorem refusal_compT {s : State} (hcal : s.calValid = true) (hut : s.utValid = true) : refusal .compT s = none := by
  simp [refusal, hcal, hut]

theorem refusal_compP {s : State} (hcal : s.calValid = true) (hup : s.upValid = true) (hb5 : s.b5Valid = true) :
    refusal .compP s = none := by
  simp [refusal, hcal, hup, hb5]

theorem refusal_alt {s : State} (hcal : s.calValid = true) (hp : s.pValid = true) : refusal .alt s = none := by
  simp [refusal, hcal, hp]

theorem refusal_slp {s : State} (hcal : s.calValid = true) (hp : s.pValid = true) : refusal .slp s = none := by
  simp [refusal, hcal, hp]

theorem toInt_b5 {c : CalTable Half} {ut : Half} {b5 t10 : Int} (h : temperature c ut = .ok (b5, t10)) :
    (BitVec.ofInt 32 b5).toInt = b5 := by
  obtain ⟨hlow, hhigh, -, -⟩ := compT_mem h
  exact toInt_ofInt32 hlow hhigh

theorem toInt_pres {c : CalTable Half} {mode : BitVec 2} {b5 pres : Int} {up : Word}
    (h : pressure c mode b5 up = .ok pres) : (BitVec.ofInt 32 pres).toInt = pres := by
  obtain ⟨hlow, hhigh⟩ := compP_ge h
  exact toInt_ofInt32 (by omega) hhigh

/-- What the phases SAMPLE_T and COMP_T of `cmd` leave of s where the pipeline returns (R221). -/
def afterTemperature (s : State) (cmd : Instr) (b0 b1 : Byte) (b5 t10 : Int) (later : List Answer) : State :=
  { s with
    ut := b0 ++ b1, utValid := false, rxbuf := [b0, b1], b5 := BitVec.ofInt 32 b5, b5Valid := true,
    t10 := BitVec.ofInt 32 t10, tempC := tempCOf t10, tValid := true, timer := 0, inFlight := false,
    answers := later, trace := s.trace ++ sampleTEvents s cmd b0 b1 ++ [.exec cmd .compT] }

section

variable {s u : State} {cmd : Instr} {rest : List Slot} {later : List Answer} {k : Nat} {w w' : List Byte}
  {b0 b1 p0 p1 p2 : Byte} {b5 t10 pres : Int}

/-- The phases SAMPLE_T and COMP_T, where the pipeline returns (R221). -/
theorem runs_temperature (hagenda : s.agenda = []) (hseq : s.seq = .run cmd (listReadTemperature s.params ++ rest))
    (hcal : s.calValid = true) (ha : s.answers = .ok w :: .ok [b0, b1] :: later)
    (htemp : temperature s.cal (b0 ++ b1) = .ok (b5, t10))
    (h : Runs k (advance cmd rest (afterTemperature s cmd b0 b1 b5 t10 later)) u) : Runs (k + 5) s u := by
  rw [listReadTemperature, List.append_assoc] at hseq
  refine runs_sampleT hagenda hseq hcal ha ?_
  refine runs_phase_exec_ok (rest := rest) hagenda rfl (refusal_compT hcal rfl) (commitPrim_compT_of_ok htemp) ?_
  exact runs_advance_congr h rfl

/-- The four phases of READ_PRESSURE, where both pipelines return (R222). -/
theorem runs_pressure (hagenda : s.agenda = []) (hseq : s.seq = .run cmd (listReadPressure s.params s.mode ++ rest))
    (hcal : s.calValid = true) (ha : s.answers = .ok w :: .ok [b0, b1] :: .ok w' :: .ok [p0, p1, p2] :: later)
    (htemp : temperature s.cal (b0 ++ b1) = .ok (b5, t10))
    (hpres : pressure s.cal s.mode b5 (upOf s.mode (p0 ++ p1 ++ p2)) = .ok pres)
    (hovr : s.ovr = false) (herr : s.err = .none) (hlast : s.lastCmd = codeOf cmd)
    (h : Runs k (advance cmd rest (afterPressure s cmd b0 b1 p0 p1 p2 b5 t10 pres later)) u) : Runs (k + 10) s u := by
  rw [listReadPressure, List.append_assoc, List.append_assoc] at hseq
  refine runs_temperature hagenda hseq hcal ha htemp ?_
  refine runs_sampleP (rest := phaseList .compP uopsCompP ++ rest) hagenda rfl hcal rfl ?_
  refine runs_phase_exec_ok (rest := rest) hagenda rfl (refusal_compP hcal rfl rfl)
    (commitPrim_compP_of_ok (toInt_b5 htemp ▸ hpres)) (runs_advance_congr h ?_)
  simp [record, startClears, commandOfPhase, afterPressure, afterTemperature, samplePEvents, uopsSampleP, uopsCompP,
    hovr, herr, hlast]

end

/-! ### Public commands -/

/-- Every public command is accepted with CAL_VALID = 1 alone, and begins with SAMPLE_T and COMP_T (R220, R221). -/
theorem exec_public {i : Instr} {s : State} (hi : isPublic i) (hidle : s.seq = .idle) (hcal : s.calValid = true) :
    ∃ rest, exec i s = .next (acceptCommand i (startClears i)
      (phaseList .sampleT (uopsSampleT s.params) ++ (phaseList .compT uopsCompT ++ rest)) s) := by
  obtain rfl | rfl | rfl | rfl := hi <;> exact ⟨_, exec_accepted hidle (if_pos hcal)⟩

/-- Three of them go on with SAMPLE_P and COMP_P (R222 to R224). -/
theorem exec_readsPressure {i : Instr} {s : State} (hi : readsPressure i) (hidle : s.seq = .idle)
    (hcal : s.calValid = true) :
    ∃ rest, exec i s = .next (acceptCommand i (startClears i) (listReadTemperature s.params
      ++ (phaseList .sampleP (uopsSampleP s.params s.mode) ++ (phaseList .compP uopsCompP ++ rest))) s) := by
  obtain rfl | rfl | rfl := hi <;> exact ⟨_, exec_accepted hidle (if_pos hcal)⟩

/-- Settles O36: the two phases, after which nothing remains. -/
theorem readTemperatureReads : Obligations.ReadTemperatureReads := by
  intro s w b0 b1 later b5 t10 ⟨hidle, hagenda⟩ hcal ha htemp
  refine ⟨_, exec_accepted hidle (if_pos hcal), busy_acceptCommand _ _ _ _, rfl, ?_⟩
  refine runs_temperature (rest := []) hagenda rfl hcal ha htemp ?_
  simp [afterTemperature, acceptCommand, startClears, finish, sampleTEvents, codeOf, hidle]

/-- Settles O37: the four phases, after which nothing remains. -/
theorem readPressureReads : Obligations.ReadPressureReads := by
  intro s w w' b0 b1 p0 p1 p2 later b5 t10 pres ⟨hidle, hagenda⟩ hcal ha htemp hpres
  refine ⟨_, exec_accepted hidle (if_pos hcal), busy_acceptCommand _ _ _ _, rfl, rfl, ?_⟩
  refine runs_pressure (rest := []) hagenda rfl hcal ha htemp hpres rfl rfl rfl ?_
  simp [afterPressure, acceptCommand, startClears, finish, sampleTEvents, samplePEvents, hidle]

/-- Settles O38: the four phases leave the pressure valid, so ALT begins, and its commit cannot fail. -/
theorem readAltitudeReads : Obligations.ReadAltitudeReads := by
  intro s w w' b0 b1 p0 p1 p2 later b5 t10 pres ⟨hidle, hagenda⟩ hcal ha htemp hpres
  refine ⟨_, exec_accepted hidle (if_pos hcal), busy_acceptCommand _ _ _ _, rfl, rfl, rfl, ?_⟩
  refine runs_pressure (rest := [⟨some .alt, .exec .alt⟩]) hagenda rfl hcal ha htemp hpres rfl rfl rfl ?_
  refine runs_phase_exec_ok hagenda rfl (refusal_alt hcal rfl) rfl ?_
  simp [afterPressure, acceptCommand, commandOfPhase, startClears, record, finish, sampleTEvents, samplePEvents,
    toInt_pres hpres, hidle]

/-- Settles O39: the four phases leave the pressure valid, so SLP begins, and its commit cannot fail. -/
theorem readSealevelReads : Obligations.ReadSealevelReads := by
  intro s w w' b0 b1 p0 p1 p2 later b5 t10 pres ⟨hidle, hagenda⟩ hcal ha htemp hpres
  refine ⟨_, exec_accepted hidle (if_pos hcal), busy_acceptCommand _ _ _ _, rfl, rfl, rfl, ?_⟩
  refine runs_pressure (rest := [⟨some .slp, .exec .slp⟩]) hagenda rfl hcal ha htemp hpres rfl rfl rfl ?_
  refine runs_phase_exec_ok hagenda rfl (refusal_slp hcal rfl) rfl ?_
  simp [afterPressure, acceptCommand, commandOfPhase, startClears, record, finish, sampleTEvents, samplePEvents,
    toInt_pres hpres, hidle]

/-- Settles O40: the first phase begins, and its sample fails. -/
theorem failedTemperatureSampleEndsAPublicCommand : Obligations.FailedTemperatureSampleEndsAPublicCommand := by
  intro i s w bad later hi ⟨hidle, hagenda⟩ hcal
  obtain ⟨rest, hexec⟩ := exec_public hi hidle hcal
  simp only [acceptCommand, startClears_eq] at hexec ⊢
  constructor
  · intro ha
    refine ⟨_, hexec, runs_sampleT_begin hagenda rfl hcal (runs_sample_failed_write hagenda rfl ha ?_)⟩
    simp [hidle]
  · intro hbad ha
    refine ⟨_, hexec, runs_sampleT_begin hagenda rfl hcal (runs_sample_bad_read hagenda rfl ha hbad ?_)⟩
    simp [sampleEvents, hidle]

/-- Settles O41: the sample is taken, COMP_T begins, and its Exec raises. -/
theorem raisingCompTEndsAPublicCommand : Obligations.RaisingCompTEndsAPublicCommand := by
  intro i s w b0 b1 later e hi ⟨hidle, hagenda⟩ hcal ha htemp
  obtain ⟨rest, hexec⟩ := exec_public hi hidle hcal
  simp only [acceptCommand, startClears_eq] at hexec ⊢
  refine ⟨_, hexec, runs_sampleT hagenda rfl hcal ha ?_⟩
  refine runs_phase_exec_error (rest := rest) hagenda rfl (refusal_compT hcal rfl) (commitPrim_compT_of_error htemp) ?_
  simp [commandOfPhase, startClears, record, raiseError, sampleTEvents, uopsCompT, hidle]

/-- Settles O42: the temperature and the sample are taken, COMP_P begins, and its Exec raises. -/
theorem failedPressureKeepsTheTemperature : Obligations.FailedPressureKeepsTheTemperature := by
  intro i s w w' b0 b1 p0 p1 p2 later b5 t10 e hi ⟨hidle, hagenda⟩ hcal ha htemp hpres
  obtain ⟨rest, hexec⟩ := exec_readsPressure hi hidle hcal
  simp only [acceptCommand, startClears_eq] at hexec ⊢
  refine ⟨_, hexec, runs_temperature hagenda rfl hcal ha htemp ?_⟩
  refine runs_sampleP (rest := phaseList .compP uopsCompP ++ rest) hagenda rfl hcal rfl ?_
  refine runs_phase_exec_error (rest := rest) hagenda rfl (refusal_compP hcal rfl rfl)
    (commitPrim_compP_of_error (toInt_b5 htemp ▸ hpres)) ?_
  simp [afterTemperature, afterPressure, commandOfPhase, startClears, record, raiseError, sampleTEvents, samplePEvents,
    uopsSampleP, uopsCompP, hidle]

/-- Settles O43: the temperature is taken, SAMPLE_P begins, and its sample fails. -/
theorem failedPressureReadKeepsB5 : Obligations.FailedPressureReadKeepsB5 := by
  intro i s w w' b0 b1 bad later b5 t10 hi ⟨hidle, hagenda⟩ hcal htemp
  obtain ⟨rest, hexec⟩ := exec_readsPressure hi hidle hcal
  simp only [acceptCommand, startClears_eq] at hexec ⊢
  constructor
  · intro ha
    refine ⟨_, hexec, runs_temperature hagenda rfl hcal ha htemp ?_⟩
    refine runs_sampleP_begin (rest := phaseList .compP uopsCompP ++ rest) hagenda rfl hcal ?_
    refine runs_sample_failed_write hagenda rfl rfl ?_
    simp [afterTemperature, uopsSampleP, sampleTEvents, hidle]
  · intro hbad ha
    refine ⟨_, hexec, runs_temperature hagenda rfl hcal ha htemp ?_⟩
    refine runs_sampleP_begin (rest := phaseList .compP uopsCompP ++ rest) hagenda rfl hcal ?_
    refine runs_sample_bad_read hagenda rfl rfl hbad ?_
    simp [afterTemperature, uopsSampleP, sampleTEvents, sampleEvents, hidle]

/-- Settles O58: the four primitives' own statements, one after the other, end in the state that O37 names. -/
theorem readPressureEqualsItsPrimitives : Obligations.ReadPressureEqualsItsPrimitives := by
  intro s w w' b0 b1 p0 p1 p2 later b5 t10 pres hs hcal ha htemp hpres
  obtain ⟨t, hexec, -, -, -, hrun⟩ := readPressureReads s w w' b0 b1 p0 p1 p2 later _ _ _ hs hcal ha htemp hpres
  obtain ⟨t1, hexec1, -, -, hrun1⟩ := sampleTTakesOneSample s w b0 b1 _ hs hcal ha
  obtain ⟨u1, hu1, hrun1⟩ := exists_eq_left.2 hrun1
  have hs1 : Quiet u1 := hu1 ▸ hs
  have htemp1 : temperature u1.cal u1.ut = .ok (b5, t10) := hu1 ▸ htemp
  obtain ⟨t2, hexec2, -, hrun2⟩ := compTConsumesTheSample u1 hs1 (hu1 ▸ hcal) (hu1 ▸ rfl)
  simp only [htemp1] at hrun2
  obtain ⟨u2, hu2, hrun2⟩ := exists_eq_left.2 hrun2
  obtain ⟨t3, hexec3, -, -, hrun3⟩ := samplePTakesOneSample u2 w' p0 p1 p2 later (hu2 ▸ hs1)
    (by rw [hu2, hu1]; exact hcal) (by rw [hu2, hu1])
  obtain ⟨u3, hu3, hrun3⟩ := exists_eq_left.2 hrun3
  obtain ⟨t4, hexec4, -, hrun4⟩ := compPConsumesSampleAndB5 u3 (by rw [hu3, hu2]; exact hs1)
    (by rw [hu3, hu2, hu1]; exact hcal) (by rw [hu3]) (by rw [hu3, hu2])
  have hpres3 : pressure u3.cal u3.mode u3.b5.toInt u3.up = .ok pres := by
    rw [hu3, hu2, hu1]
    exact (congrArg (pressure s.cal s.mode · _) (toInt_b5 htemp)).trans hpres
  simp only [hpres3] at hrun4
  refine ⟨t, _, hexec, hrun, t1, u1, t2, u2, t3, u3, t4, _, hexec1, hrun1, hexec2, hrun2, hexec3, hrun3, hexec4,
    hrun4, ?_⟩
  rw [hu3, hu2, hu1]
  rfl

end Sys2Proof.Proofs
end

section
/-! The exceptions chapter's statements: how an idle block refuses or accepts a command (R242 to R244), that no step
stops the machine (R246, R250), and what an Exec that raises leaves (R182, R246). -/

namespace Sys2Proof.Proofs

open Sys2Proof Sys2Proof.Machine Sys2Proof.Safety Sys2Proof.Spec Sys2Proof.Laws

/-! ### The µops of a command's list -/

@[simp] theorem primList_ops (ops : List UOp) : (primList ops).map (·.op) = ops := by
  simp [primList, Function.comp_def]

@[simp] theorem phaseList_ops (p : Prim) (ops : List UOp) : (phaseList p ops).map (·.op) = ops := by
  cases ops with
  | nil => rfl
  | cons op ops => simp [phaseList]

/-- The model's conversion byte and settle time are those of R107 and R157. -/
theorem uopsSampleP_eq (p : Params) (mode : BitVec 2) : uopsSampleP p mode = samplePOps p mode := by
  rw [uopsSampleP, presByte_eq, modeGet_eq]
  rfl

theorem listReadPressure_ops (p : Params) (mode : BitVec 2) :
    (listReadPressure p mode).map (·.op) = pressureOps p mode := by
  simp only [listReadPressure, listReadTemperature, List.map_append, phaseList_ops, uopsSampleP_eq]
  rfl

/-- The model's lists hold the µops that R142 to R224 list. -/
theorem programOf_ops (i : Instr) (p : Params) (mode : BitVec 2) : (programOf i p mode).map (·.op) = opsOf i p mode := by
  cases i with
  | loadCal | sampleT | compT | compP | alt | slp | readTemperature => rfl
  | sampleP => exact (primList_ops _).trans (uopsSampleP_eq p mode)
  | readPressure => exact listReadPressure_ops p mode
  | readAltitude | readSealevel =>
    simp only [programOf, listReadAltitude, listReadSealevel, List.map_append, listReadPressure_ops]
    rfl

/-! ### Refusal and acceptance -/

theorem exec_refused {i : Instr} {s : State} {e : ErrCode} (hidle : s.seq = .idle) (h : refusal i s = some e) :
    exec i s = .next (refuseCommand (codeOf i) e s) := by
  rw [exec_eq_issueCommand, h, issueCommand_refused hidle]

/-- Settles O6: the row of R243 decides (`exec_refused`, `exec_accepted`), and the list that runs holds the spec's µops
(`programOf_ops`). -/
theorem idleCommandIsRefusedOrAccepted : Obligations.IdleCommandIsRefusedOrAccepted := by
  intro i s hidle
  cases href : refusal i s with
  | some e => exact exec_refused hidle href
  | none =>
    refine ⟨programOf i s.params s.mode, programOf_ops i s.params s.mode, ?_⟩
    rw [exec_accepted hidle href]
    simp only [acceptCommand, startClears_eq]

/-! ### No step stops the machine -/

theorem stimulusStep_next (x : Stimulus) (s : State) : ∃ t, stimulusStep x s = .next t := by
  cases x with
  | hostWrite idx data =>
    obtain ⟨i, hissue⟩ | ⟨-, hother⟩ := stimulusStep_hostWrite idx data s
    · exact ⟨_, hissue⟩
    · exact ⟨_, hother⟩
  | hostRead | poll | engine | elapse | reset => exact ⟨_, rfl⟩

/-- Settles O44: a step is the step of some stimulus, and each of those answers a next state. -/
theorem everyStepAnswersANextState : Obligations.EveryStepAnswersANextState := by
  intro s
  obtain ⟨x, later, hstep, -⟩ := step_eq_stimulusStep s
  exact hstep ▸ stimulusStep_next x { s with agenda := later }

/-! ### An Exec that raises -/

/-- The effect of an Exec whose commit raises is its event alone (R182). -/
theorem uopEffect_exec_of_error {cmd : Instr} {f : Prim} {s : State} {e : ErrCode} (h : commitPrim f s = .error e) :
    uopEffect cmd (.exec f) s = some (some e, { s with trace := s.trace ++ [.exec cmd f] }) := by
  simp only [uopEffect, h]

/-- The start effects are on valid flags only, so they commute with the timer. -/
theorem phaseStart_timer (b : Option Prim) (t : Nat) (s : State) :
    phaseStart b { s with timer := t } = { phaseStart b s with timer := t } := by
  cases b with
  | none => rfl
  | some p => simp only [phaseStart, startClears_eq]

theorem phaseStart_trace (b : Option Prim) (s : State) : (phaseStart b s).trace = s.trace := by
  cases b with
  | none => rfl
  | some p => simp only [phaseStart, startClears_eq]

/-- Settles O45: the engine's rule for a µop that raises (`engineStepRunsOneUop`), on the effect of this Exec. -/
theorem raisingExecCommitsNothing : Obligations.RaisingExecCommitsNothing := by
  intro s cmd begins f rest e hagenda hseq hready hcommit
  have hstep := engineStepRunsOneUop s cmd ⟨begins, .exec f⟩ rest hagenda hseq
  simp only [hready, uopEffect_exec_of_error hcommit] at hstep
  rw [hstep, phaseStart_timer, phaseStart_trace]

end Sys2Proof.Proofs
end

section
/-! The reset and hazards chapter's statements: what a reset gives and what it keeps (R280, R52), and an engine whose
transaction never completes (R289). -/

namespace Sys2Proof.Proofs

open Sys2Proof Sys2Proof.Machine Sys2Proof.Safety Sys2Proof.Spec Sys2Proof.Laws

/-! ### A transaction without an answer -/

/-- A transaction in flight, with no time left in a Wait: where an engine step without an answer leads. -/
def heldInFlight (s : State) : State := { s with timer := 0, inFlight := true }

/-- A transaction has no effect until the sensor answers it (R289, log 6). -/
theorem uopEffect_of_unanswered {op : UOp} {s : State} (cmd : Instr)
    (htx : (∃ reg val, op = .txWrite reg val) ∨ ∃ reg k dst, op = .txRead reg k dst)
    (hans : s.answers = [] ∨ ∃ later, s.answers = .never :: later) : uopEffect cmd op s = none := by
  obtain ⟨reg, val, rfl⟩ | ⟨reg, k, dst, rfl⟩ := htx <;> obtain ha | ⟨later, ha⟩ := hans <;> simp only [uopEffect, ha]

section

variable {s : State} {cmd : Instr} {op : UOp} {rest : List Slot}

/-- An engine step on a µop without an effect changes nothing but the transaction in flight and the timer. -/
theorem step_of_no_effect (hagenda : s.agenda = []) (hseq : s.seq = .run cmd (⟨none, op⟩ :: rest))
    (heff : uopEffect cmd op { s with timer := 0 } = none) : step s = .next (heldInFlight s) := by
  have hstep := engineStepRunsOneUop s cmd ⟨none, op⟩ rest hagenda hseq
  have hready : phaseRefusal none s = none := rfl
  have hbegun : phaseStart none { s with timer := 0 } = { s with timer := 0 } := rfl
  simp only [hready, hbegun, heff, ← hseq] at hstep
  exact hstep

/-- The held state waits for the same answer, so each further step leads to it again. -/
theorem runs_heldInFlight (hagenda : s.agenda = []) (hseq : s.seq = .run cmd (⟨none, op⟩ :: rest))
    (htx : (∃ reg val, op = .txWrite reg val) ∨ ∃ reg k dst, op = .txRead reg k dst)
    (hans : s.answers = [] ∨ ∃ later, s.answers = .never :: later) (n : Nat) :
    Runs n (heldInFlight s) (heldInFlight s) := by
  induction n with
  | zero => rfl
  | succ n ih =>
    have hstep : step (heldInFlight s) = .next (heldInFlight s) :=
      step_of_no_effect (s := heldInFlight s) hagenda hseq (uopEffect_of_unanswered cmd htx hans)
    exact (runs_succ_of_step n hstep).2 ih

end

/-- Settles O46: the first step holds the transaction (`step_of_no_effect`), and the others stay there
(`runs_heldInFlight`). -/
theorem unansweredTransactionStaysInFlight : Obligations.UnansweredTransactionStaysInFlight := by
  intro s cmd op rest n hagenda hseq htx hans
  have hstep := step_of_no_effect hagenda hseq (uopEffect_of_unanswered cmd htx hans)
  exact (runs_succ_of_step n hstep).2 (runs_heldInFlight hagenda hseq htx hans n)

/-! ### Reset -/

theorem step_reset {s : State} {mode : BitVec 2} {devAddr : Byte} {later : List Stimulus}
    (ha : s.agenda = .reset mode devAddr :: later) :
    step s = .next (applyReset mode devAddr { s with agenda := later }) :=
  step_of_agenda_cons ha

theorem statusWord_applyReset (mode : BitVec 2) (devAddr : Byte) (s : State) :
    statusWord (applyReset mode devAddr s) = 0 := by
  simp only [statusWord, applyReset, State.resetWith, busy]
  decide

/-- Settles O47: the step is the reset (`step_reset`), whose registers are those of `State.resetWith`. -/
theorem resetFromAnyState : Obligations.ResetFromAnyState := by
  intro s mode devAddr later ha
  have hstatus := statusWord_applyReset mode devAddr { s with agenda := later }
  exact ⟨_, step_reset ha, rfl, rfl, rfl, rfl, rfl, rfl, rfl, rfl, rfl, rfl, rfl, rfl, rfl, hstatus, rfl, rfl, rfl⟩

/-- Settles O48: the step is the reset (`step_reset`), which takes these four from the state before it. -/
theorem resetDropsTheAnswerInFlight : Obligations.ResetDropsTheAnswerInFlight :=
  fun _ _ _ _ ha => ⟨_, step_reset ha, rfl, rfl, rfl, rfl⟩

end Sys2Proof.Proofs
end
